-- ==== Sys2Proof/Word.lean ====
section
/-! DEFINITION. The bit-vector types of PSVALU: register lane values, packed halves, 64-bit containers, lanes and masks. -/

namespace Sys2Proof

/-- One 16-bit packed field (45_packed16.md R140), also a binary16 pattern (R90). -/
abbrev Half := BitVec 16

/-- The 32-bit value of one register row in one lane (R11), also a binary32 pattern (R90). -/
abbrev Word := BitVec 32

/-- The 64-bit value of a register view made of two rows (R12). -/
abbrev Container := BitVec 64

/-- The command word `CMD`, one format of 64 bits (R46). -/
abbrev CommandWord := BitVec 64

/-- A lane index. The lane set has exactly `L = 64` lanes and there is no other lane (R135; L is log 1). -/
abbrev Lane := Fin 64

/-- The active-lane mask `EXEC`, one bit per lane (R125). -/
abbrev Mask := BitVec 64

end Sys2Proof
end

