-- ==== Sys2Proof/Syntax.lean ====
section
/-! DEFINITION. The commands: the fields every command word carries (R46) and one constructor per opcode (R48). -/

namespace Sys2Proof

/-- The fields of a command word other than `OP` (R46). All commands share the one format `CW`, and a field a
command ignores (R53) is part of the command all the same. -/
structure Fields where
  /-- `CLAMP`, bit 8. -/
  clamp : Bool
  /-- `OPSEL`, bits 11:9: bit `k` is source `k`'s half for the low result half. -/
  opsel : BitVec 3
  /-- `OPSEL_HI`, bits 14:12. -/
  opselHi : BitVec 3
  /-- `NEG`, bits 17:15. -/
  neg : BitVec 3
  /-- `NEG_HI`, bits 20:18. -/
  negHi : BitVec 3
  /-- `UMOD`, bit 21. -/
  umod : Bool
  /-- `VDST`, bits 31:24: a row index (accumulator index for `ACC_WRITE`). -/
  vdst : Nat
  /-- `SRC0`, bits 39:32 (accumulator index for `ACC_READ`). -/
  src0 : Nat
  /-- `SRC1`, bits 47:40. -/
  src1 : Nat
  /-- `SRC2`, bits 55:48. -/
  src2 : Nat
  /-- `U0`, bit 56: source 0 is uniform. -/
  u0 : Bool
  /-- `U1`, bit 57. -/
  u1 : Bool
  /-- `U2`, bit 58. -/
  u2 : Bool
deriving DecidableEq, Repr

/-- The commands of the catalog (R48, R49): one constructor per row of the opcode map. -/
inductive Instr where
  /-- `PK_MAD_I16`, `OP = 0x00`: multiply-add, signed (R141). -/
  | pkMadI16 (f : Fields)
  /-- `PK_MUL_LO_U16`, `OP = 0x01`: multiply-low, unsigned (R142). -/
  | pkMulLoU16 (f : Fields)
  /-- `PK_ADD_I16`, `OP = 0x02`: add, signed (R143). -/
  | pkAddI16 (f : Fields)
  /-- `PK_SUB_I16`, `OP = 0x03`: subtract, signed (R144). -/
  | pkSubI16 (f : Fields)
  /-- `PK_ADD_U16`, `OP = 0x04`: add, unsigned (R145). -/
  | pkAddU16 (f : Fields)
  /-- `PK_SUB_U16`, `OP = 0x05`: subtract, unsigned (R146). -/
  | pkSubU16 (f : Fields)
  /-- `PK_MIN_I16`, `OP = 0x06`: minimum, signed (R147). -/
  | pkMinI16 (f : Fields)
  /-- `PK_MAX_I16`, `OP = 0x07`: maximum, signed (R148). -/
  | pkMaxI16 (f : Fields)
  /-- `PK_MIN_U16`, `OP = 0x08`: minimum, unsigned (R149). -/
  | pkMinU16 (f : Fields)
  /-- `PK_MAX_U16`, `OP = 0x09`: maximum, unsigned (R150). -/
  | pkMaxU16 (f : Fields)
  /-- `PK_LSHLREV_B16`, `OP = 0x0A`: shift left logical (R151). -/
  | pkLshlrevB16 (f : Fields)
  /-- `PK_LSHRREV_B16`, `OP = 0x0B`: shift right logical (R152). -/
  | pkLshrrevB16 (f : Fields)
  /-- `PK_ASHRREV_I16`, `OP = 0x0C`: shift right arithmetic (R153). -/
  | pkAshrrevI16 (f : Fields)
  /-- `PK_ADD_F16`, `OP = 0x0D`: add, half precision (R154). -/
  | pkAddF16 (f : Fields)
  /-- `PK_MUL_F16`, `OP = 0x0E`: multiply, half precision (R155). -/
  | pkMulF16 (f : Fields)
  /-- `PK_MIN_F16`, `OP = 0x0F`: minimum, half precision (R156). -/
  | pkMinF16 (f : Fields)
  /-- `PK_MAX_F16`, `OP = 0x10`: maximum, half precision (R157). -/
  | pkMaxF16 (f : Fields)
  /-- `PK_FMA_F16`, `OP = 0x11`: fused multiply-add, half precision (R158). -/
  | pkFmaF16 (f : Fields)
  /-- `DOT2_I32_I16`, `OP = 0x20`: dot product of two signed 16-bit components (R113). -/
  | dot2I32I16 (f : Fields)
  /-- `DOT2_U32_U16`, `OP = 0x21`: dot product of two unsigned 16-bit components (R114). -/
  | dot2U32U16 (f : Fields)
  /-- `DOT4_I32_I8`, `OP = 0x22`: dot product of four signed 8-bit components (R115). -/
  | dot4I32I8 (f : Fields)
  /-- `DOT4_U32_U8`, `OP = 0x23`: dot product of four unsigned 8-bit components (R116). -/
  | dot4U32U8 (f : Fields)
  /-- `DOT8_I32_I4`, `OP = 0x24`: dot product of eight signed 4-bit components (R117). -/
  | dot8I32I4 (f : Fields)
  /-- `DOT8_U32_U4`, `OP = 0x25`: dot product of eight unsigned 4-bit components (R118). -/
  | dot8U32U4 (f : Fields)
  /-- `DOT2_F32_F16`, `OP = 0x26`: dot product of two binary16 components in binary32 (R119). -/
  | dot2F32F16 (f : Fields)
  /-- `PK_FMA_F32`, `OP = 0x30`: dual-float fused multiply-add (R173). -/
  | pkFmaF32 (f : Fields)
  /-- `PK_MUL_F32`, `OP = 0x31`: dual-float multiply (R174). -/
  | pkMulF32 (f : Fields)
  /-- `PK_ADD_F32`, `OP = 0x32`: dual-float add (R175). -/
  | pkAddF32 (f : Fields)
  /-- `PK_MOV_B32`, `OP = 0x33`: packed move (R176). -/
  | pkMovB32 (f : Fields)
  /-- `ACC_READ`, `OP = 0x40`: copy from the accumulator window (R186). -/
  | accRead (f : Fields)
  /-- `ACC_WRITE`, `OP = 0x41`: copy to the accumulator window (R187). -/
  | accWrite (f : Fields)
deriving DecidableEq, Repr

/-- The fields of a command. -/
def Instr.fields : Instr → Fields
  | .pkMadI16 f => f
  | .pkMulLoU16 f => f
  | .pkAddI16 f => f
  | .pkSubI16 f => f
  | .pkAddU16 f => f
  | .pkSubU16 f => f
  | .pkMinI16 f => f
  | .pkMaxI16 f => f
  | .pkMinU16 f => f
  | .pkMaxU16 f => f
  | .pkLshlrevB16 f => f
  | .pkLshrrevB16 f => f
  | .pkAshrrevI16 f => f
  | .pkAddF16 f => f
  | .pkMulF16 f => f
  | .pkMinF16 f => f
  | .pkMaxF16 f => f
  | .pkFmaF16 f => f
  | .dot2I32I16 f => f
  | .dot2U32U16 f => f
  | .dot4I32I8 f => f
  | .dot4U32U8 f => f
  | .dot8I32I4 f => f
  | .dot8U32U4 f => f
  | .dot2F32F16 f => f
  | .pkFmaF32 f => f
  | .pkMulF32 f => f
  | .pkAddF32 f => f
  | .pkMovB32 f => f
  | .accRead f => f
  | .accWrite f => f

/-- The same operation with other fields. -/
def Instr.withFields (i : Instr) (f : Fields) : Instr :=
  match i with
  | .pkMadI16 _ => .pkMadI16 f
  | .pkMulLoU16 _ => .pkMulLoU16 f
  | .pkAddI16 _ => .pkAddI16 f
  | .pkSubI16 _ => .pkSubI16 f
  | .pkAddU16 _ => .pkAddU16 f
  | .pkSubU16 _ => .pkSubU16 f
  | .pkMinI16 _ => .pkMinI16 f
  | .pkMaxI16 _ => .pkMaxI16 f
  | .pkMinU16 _ => .pkMinU16 f
  | .pkMaxU16 _ => .pkMaxU16 f
  | .pkLshlrevB16 _ => .pkLshlrevB16 f
  | .pkLshrrevB16 _ => .pkLshrrevB16 f
  | .pkAshrrevI16 _ => .pkAshrrevI16 f
  | .pkAddF16 _ => .pkAddF16 f
  | .pkMulF16 _ => .pkMulF16 f
  | .pkMinF16 _ => .pkMinF16 f
  | .pkMaxF16 _ => .pkMaxF16 f
  | .pkFmaF16 _ => .pkFmaF16 f
  | .dot2I32I16 _ => .dot2I32I16 f
  | .dot2U32U16 _ => .dot2U32U16 f
  | .dot4I32I8 _ => .dot4I32I8 f
  | .dot4U32U8 _ => .dot4U32U8 f
  | .dot8I32I4 _ => .dot8I32I4 f
  | .dot8U32U4 _ => .dot8U32U4 f
  | .dot2F32F16 _ => .dot2F32F16 f
  | .pkFmaF32 _ => .pkFmaF32 f
  | .pkMulF32 _ => .pkMulF32 f
  | .pkAddF32 _ => .pkAddF32 f
  | .pkMovB32 _ => .pkMovB32 f
  | .accRead _ => .accRead f
  | .accWrite _ => .accWrite f

end Sys2Proof
end

