-- ==== Sys2Proof/WellFormed.lean ====
section
/-! DEFINITION. Which terms stand for a command word: the row fields are 8 bits wide (R46). -/

namespace Sys2Proof

/-- An 8-bit row field holds the index (R46, R50). -/
def rowFieldFits (r : Nat) : Bool := decide (r < 256)

/-- The fields fit the places the format has for them. -/
def Fields.wellFormed (f : Fields) : Bool :=
  rowFieldFits f.vdst && rowFieldFits f.src0 && rowFieldFits f.src1 && rowFieldFits f.src2

/-- The command is one a command word can hold. -/
def Instr.wellFormed (i : Instr) : Bool := i.fields.wellFormed

end Sys2Proof
end

