-- ==== Sys2Proof/Decode.lean ====
section
/-! DEFINITION. Decoding a command word (R46, R48, R54, R55), total on every 64-bit value, and encoding a command. -/

namespace Sys2Proof

/-- Why a command word is no command of the catalog. Either reason makes the command illegal (R199 a, b). -/
inductive DecodeError where
  /-- `CMD[23:22]` or `CMD[63:59]` is not 0 (R54). -/
  | reservedBits
  /-- `OP` is not in the opcode map (R55). -/
  | unassignedOp (op : BitVec 8)
deriving DecidableEq, Repr

/-- The opcode map (R48). -/
def commandOfOp (op : BitVec 8) : Option (Fields → Instr) :=
  match op with
  | 0x00#8 => some .pkMadI16
  | 0x01#8 => some .pkMulLoU16
  | 0x02#8 => some .pkAddI16
  | 0x03#8 => some .pkSubI16
  | 0x04#8 => some .pkAddU16
  | 0x05#8 => some .pkSubU16
  | 0x06#8 => some .pkMinI16
  | 0x07#8 => some .pkMaxI16
  | 0x08#8 => some .pkMinU16
  | 0x09#8 => some .pkMaxU16
  | 0x0A#8 => some .pkLshlrevB16
  | 0x0B#8 => some .pkLshrrevB16
  | 0x0C#8 => some .pkAshrrevI16
  | 0x0D#8 => some .pkAddF16
  | 0x0E#8 => some .pkMulF16
  | 0x0F#8 => some .pkMinF16
  | 0x10#8 => some .pkMaxF16
  | 0x11#8 => some .pkFmaF16
  | 0x20#8 => some .dot2I32I16
  | 0x21#8 => some .dot2U32U16
  | 0x22#8 => some .dot4I32I8
  | 0x23#8 => some .dot4U32U8
  | 0x24#8 => some .dot8I32I4
  | 0x25#8 => some .dot8U32U4
  | 0x26#8 => some .dot2F32F16
  | 0x30#8 => some .pkFmaF32
  | 0x31#8 => some .pkMulF32
  | 0x32#8 => some .pkAddF32
  | 0x33#8 => some .pkMovB32
  | 0x40#8 => some .accRead
  | 0x41#8 => some .accWrite
  | _ => none

/-- The fields of a command word, at the places R46 gives them. -/
def fieldsOf (w : CommandWord) : Fields where
  clamp := w.getLsbD 8
  opsel := w.extractLsb' 9 3
  opselHi := w.extractLsb' 12 3
  neg := w.extractLsb' 15 3
  negHi := w.extractLsb' 18 3
  umod := w.getLsbD 21
  vdst := (w.extractLsb' 24 8).toNat
  src0 := (w.extractLsb' 32 8).toNat
  src1 := (w.extractLsb' 40 8).toNat
  src2 := (w.extractLsb' 48 8).toNat
  u0 := w.getLsbD 56
  u1 := w.getLsbD 57
  u2 := w.getLsbD 58

/-- A reserved bit of the word is set (R54). -/
def reservedSet (w : CommandWord) : Bool :=
  w.extractLsb' 22 2 != 0#2 || w.extractLsb' 59 5 != 0#5

/-- Decoding: reserved bits first, then the opcode (R202 steps 1 and 2). -/
def decode (w : CommandWord) : Except DecodeError Instr :=
  if reservedSet w then .error .reservedBits
  else match commandOfOp (w.extractLsb' 0 8) with
    | none => .error (.unassignedOp (w.extractLsb' 0 8))
    | some mk => .ok (mk (fieldsOf w))

/-- The command the decoder reads from a word given as a number, bit 0 its least significant bit. Command words
have one length, 64 bits (R46), and are presented whole, so no byte order enters (R33). -/
def decodeTableWord (nbits w : Nat) : Option Instr :=
  if w % 2 ^ nbits < 2 ^ 64 then (decode (BitVec.ofNat 64 (w % 2 ^ nbits))).toOption else none

/-- The opcode number of a command (R48). -/
def opOf : Instr → BitVec 8
  | .pkMadI16 _ => 0x00#8
  | .pkMulLoU16 _ => 0x01#8
  | .pkAddI16 _ => 0x02#8
  | .pkSubI16 _ => 0x03#8
  | .pkAddU16 _ => 0x04#8
  | .pkSubU16 _ => 0x05#8
  | .pkMinI16 _ => 0x06#8
  | .pkMaxI16 _ => 0x07#8
  | .pkMinU16 _ => 0x08#8
  | .pkMaxU16 _ => 0x09#8
  | .pkLshlrevB16 _ => 0x0A#8
  | .pkLshrrevB16 _ => 0x0B#8
  | .pkAshrrevI16 _ => 0x0C#8
  | .pkAddF16 _ => 0x0D#8
  | .pkMulF16 _ => 0x0E#8
  | .pkMinF16 _ => 0x0F#8
  | .pkMaxF16 _ => 0x10#8
  | .pkFmaF16 _ => 0x11#8
  | .dot2I32I16 _ => 0x20#8
  | .dot2U32U16 _ => 0x21#8
  | .dot4I32I8 _ => 0x22#8
  | .dot4U32U8 _ => 0x23#8
  | .dot8I32I4 _ => 0x24#8
  | .dot8U32U4 _ => 0x25#8
  | .dot2F32F16 _ => 0x26#8
  | .pkFmaF32 _ => 0x30#8
  | .pkMulF32 _ => 0x31#8
  | .pkAddF32 _ => 0x32#8
  | .pkMovB32 _ => 0x33#8
  | .accRead _ => 0x40#8
  | .accWrite _ => 0x41#8

/-- A field of the command word with its least significant bit at place `at0` (R46). -/
def placed {n : Nat} (v : BitVec n) (at0 : Nat) : CommandWord := v.setWidth 64 <<< at0

/-- The command word with opcode `op` and fields `f`: each field at its place of R46, the reserved bits 0. -/
def encodeFields (op : BitVec 8) (f : Fields) : CommandWord :=
  placed op 0 ||| placed (BitVec.ofBool f.clamp) 8 ||| placed f.opsel 9 ||| placed f.opselHi 12
    ||| placed f.neg 15 ||| placed f.negHi 18 ||| placed (BitVec.ofBool f.umod) 21
    ||| placed (BitVec.ofNat 8 f.vdst) 24 ||| placed (BitVec.ofNat 8 f.src0) 32
    ||| placed (BitVec.ofNat 8 f.src1) 40 ||| placed (BitVec.ofNat 8 f.src2) 48
    ||| placed (BitVec.ofBool f.u0) 56 ||| placed (BitVec.ofBool f.u1) 57 ||| placed (BitVec.ofBool f.u2) 58

/-- The command word of a command. -/
def encode (i : Instr) : CommandWord := encodeFields (opOf i) i.fields

end Sys2Proof
end

