-- ==== Sys2Proof/Config.lean ====
section
/-! DEFINITION. What an instance of the block fixes (R4) and the values the spec leaves open (R94, R97), these as
constants with no body: a claim about them holds whatever they are. -/

namespace Sys2Proof

/-- The number of lanes `L` (R4): the spec's default. DESIGN CHOICE, log 1. -/
abbrev Config.lanes : Nat := 64

/-- The parameters of R4 that have no single value in the spec. They are plain data, so that every claim about a
state holds for every value of them (log 2). -/
structure Config.Params where
  /-- `NREG`: the number of 32-bit register rows, `2 <= NREG <= 65536` (R4, D3). -/
  nreg : Nat
  /-- `PKFMA_NEG_BIT0_ONLY`: whether `PK_FMA_F32` tests bit 0 of NEG and NEG_HI for all three sources (R173, D16). -/
  pkfmaNegBit0Only : Bool
deriving DecidableEq, Repr

/-- The range R4 gives `NREG`. -/
abbrev Config.Params.WF (p : Config.Params) : Prop := 2 ≤ p.nreg ∧ p.nreg ≤ 65536

/-- The parameters of the machine at reset: `NREG = 512` (DESIGN CHOICE, log 2) and the default of
`PKFMA_NEG_BIT0_ONLY`. -/
def Config.resetParams : Config.Params := { nreg := 512, pkfmaNegBit0Only := false }

/-- What a row lane that nothing has written reads as: the spec calls it unspecified (R22, U7).
DESIGN CHOICE, unsafe, log 3. -/
def Config.unwrittenLane : Word := 0#32

/-- `FP.nan_rule` of `FP.add16` (R94, U1): free. -/
opaque Config.nanAdd16 : Half → Half → Half
/-- `FP.nan_rule` of `FP.mul16` (R94, U1): free. -/
opaque Config.nanMul16 : Half → Half → Half
/-- `FP.nan_rule` of `FP.fma16` (R94, U1): free. -/
opaque Config.nanFma16 : Half → Half → Half → Half
/-- `FP.nan_rule` of `FP.cvt16to32` (R94, U1): free. -/
opaque Config.nanCvt16to32 : Half → Word
/-- `FP.nan_rule` of `FP.add32` (R94, U1): free. -/
opaque Config.nanAdd32 : Word → Word → Word
/-- `FP.nan_rule` of `FP.mul32` (R94, U1): free. -/
opaque Config.nanMul32 : Word → Word → Word
/-- `FP.nan_rule` of `FP.fma32` (R94, U1): free. -/
opaque Config.nanFma32 : Word → Word → Word → Word

/-- `FP.minmax_zero_rule` of `FP.min16` (R97 i, U2): whether the zero returned for the pair of zeros of
opposite sign is negative. Free. -/
opaque Config.minZeroIsNegative : Half → Half → Bool
/-- `FP.minmax_zero_rule` of `FP.max16` (R97 i, U2). Free. -/
opaque Config.maxZeroIsNegative : Half → Half → Bool
/-- `FP.minmax_nan_rule` of `FP.min16` (R97 ii, U3): the result when an operand is a NaN. Free. -/
opaque Config.minWithNaN : Half → Half → Half
/-- `FP.minmax_nan_rule` of `FP.max16` (R97 ii, U3). Free. -/
opaque Config.maxWithNaN : Half → Half → Half

end Sys2Proof
end

