-- ==== Sys2Proof/Machine/State.lean ====
section
/-! DEFINITION. The state of the block, plain data, and the state after reset. -/

namespace Sys2Proof.Machine

/-- One lane of one register row with its value: `VR[row][lane] = value` (R11). -/
structure RegCell where
  row : Nat
  lane : Lane
  value : Word
deriving DecidableEq, Repr

/-- The register rows `VR` (R11): the row lanes that have been written, in rising order of row and lane. A row lane
that is not listed has never been written (R22) and reads as `Config.unwrittenLane` (log 3, log 4). -/
structure RegFile where
  cells : List RegCell
deriving DecidableEq, Repr

/-- The inputs the caller presents with a command word (R45). -/
structure Inputs where
  /-- `EXEC`, the active-lane mask (R125). -/
  exec : Mask
  /-- `UVAL0`: the value of source 0 when the command marks it uniform (R52). -/
  uval0 : Container
  uval1 : Container
  uval2 : Container
  /-- `ACC_OFFSET`, the accumulator-window offset, unsigned (R14, R45). -/
  accOffset : BitVec 16
deriving DecidableEq, Repr

/-- A command as the caller presents it: the command word and its inputs, sampled at one instant (R45). -/
structure Command where
  word : CommandWord
  inputs : Inputs
deriving DecidableEq, Repr

/-- One action of the caller (R5). -/
inductive CallerInput where
  /-- Present a command (R45). -/
  | command (c : Command)
  /-- Apply reset (R220). -/
  | reset
  /-- Write one lane of a register row between commands (R37, R222 a). -/
  | writeLane (row : Nat) (lane : Lane) (value : Word)
deriving DecidableEq, Repr

/-- The causes of R196 that are ever produced. -/
inductive Cause where
  /-- Code 0. -/
  | none
  /-- Code 1, the warning of R197. -/
  | meaninglessModifier
  /-- Code 2, fatal (R198). -/
  | unsupportedMode
  /-- Code 3, fatal (R199). -/
  | illegalCommand
deriving DecidableEq, Repr

/-- The response to a command: `RESP[1:0]` and `RESP_CAUSE[3:0]` (R60). -/
structure Response where
  code : BitVec 2
  cause : BitVec 4
deriving DecidableEq, Repr

/-- Why a step has no next state. No command of the catalog ends in one of these while the block is not halted. -/
inductive Fault where
  /-- The block is halted and the caller has only commands to present: it accepts none, no step exists until reset
  (R18, U13). Raised by the step and by every command. Safe: the spec says the block is stuck. -/
  | halted
  /-- The caller's sequence is exhausted: the run is completed (R228 a, R5: one command per invocation). Raised by
  the step. Safe: no claim about a next state follows from it. -/
  | noCommand
  /-- The caller writes a register row outside `0..NREG-1`, a row the spec says does not exist (R36). Raised by the
  step on a caller's write, never by a command. Safe. -/
  | noSuchRow
deriving DecidableEq, Repr

/-- Why a step gives no meaning to an instruction. -/
inductive Refusal where
  /-- The instruction has no meaning in this model yet. No arm of the model answers it. Safe. -/
  | notModelled (mnemonic : String)
deriving DecidableEq, Repr

/-- The state of the block (R10), with the inputs and outputs of a step and the instance's parameters. -/
structure State where
  /-- The register rows (R11). -/
  vr : RegFile
  /-- The status register `PSTAT` (R17). -/
  pstat : Word
  /-- The command position (R15). -/
  position : Nat
  /-- The last response, none before the first since reset (R60). The model's own field. -/
  resp : Option Response
  /-- The inputs sampled with the command last accepted (R45). The model's own field. -/
  inputs : Inputs
  /-- The caller's actions still to come, the next one first (R15, R37). The model's own field. -/
  pending : List CallerInput
  /-- The instance's parameters (R4), never changed by a step. The model's own field. -/
  params : Config.Params
deriving DecidableEq, Repr

/-- The machine right after its first reset (R22, R221): `PSTAT` is 0, the command position 0, nothing in progress.
The register rows, which reset does not write, read as log 3 says; `resp`, `inputs` and `params` are the model's own
(log 8, log 5, log 2). -/
def State.reset : State where
  vr := { cells := [] }
  pstat := 0#32
  position := 0
  resp := none
  inputs := { exec := 0xFFFFFFFFFFFFFFFF#64, uval0 := 0#64, uval1 := 0#64, uval2 := 0#64, accOffset := 0#16 }
  pending := []
  params := Config.resetParams

end Sys2Proof.Machine
end

