-- ==== Sys2Proof/Machine/Flags.lean ====
section
/-! DEFINITION. The fields of `PSTAT` (R17) and the codes of causes and responses (R196, R60). The block has no
condition codes and no other flags (R16). -/

namespace Sys2Proof.Machine

/-- `PSTAT.WARN`, bit 0 (R17). -/
def pstatWarn (p : Word) : Bool := p.getLsbD 0

/-- `PSTAT.FATAL`, bit 1 (R17). -/
def pstatFatal (p : Word) : Bool := p.getLsbD 1

/-- `PSTAT.CAUSE`, bits 7:4 (R17). -/
def pstatCause (p : Word) : BitVec 4 := p.extractLsb' 4 4

/-- The reserved bits 3:2 and 31:8 read as 0 (R17). -/
def pstatReservedClear (p : Word) : Bool := p &&& 0xFFFFFF0C#32 == 0#32

/-- `PSTAT.WARN <- 1`. -/
def pstatSetWarn (p : Word) : Word := p ||| 0x1#32

/-- `PSTAT.FATAL <- 1`. -/
def pstatSetFatal (p : Word) : Word := p ||| 0x2#32

/-- `PSTAT.CAUSE <- c`. -/
def pstatSetCause (p : Word) (c : BitVec 4) : Word := (p &&& 0xFFFFFF0F#32) ||| (c.setWidth 32 <<< 4)

/-- The cause codes (R196). -/
def Cause.code : Cause → BitVec 4
  | .none => 0#4
  | .meaninglessModifier => 1#4
  | .unsupportedMode => 2#4
  | .illegalCommand => 3#4

/-- `PSTAT` after a warning: WARN set, and CAUSE 1 if FATAL is 0 (R200). -/
def pstatAfterWarning (p : Word) : Word :=
  if pstatFatal p then pstatSetWarn p else pstatSetCause (pstatSetWarn p) Cause.meaninglessModifier.code

/-- `PSTAT` after a fatal fault: FATAL set, CAUSE overwritten, WARN unchanged (R201). -/
def pstatAfterFatal (p : Word) (c : Cause) : Word := pstatSetCause (pstatSetFatal p) c.code

/-- `OK`: executed, no warning (R60). -/
def Response.ok : Response := { code := 0#2, cause := Cause.none.code }

/-- `OK_WARN`: executed with the modifier ignored (R60). -/
def Response.okWarn : Response := { code := 1#2, cause := Cause.meaninglessModifier.code }

/-- `FATAL`: aborted, nothing written (R60). -/
def Response.fatal (c : Cause) : Response := { code := 2#2, cause := c.code }

end Sys2Proof.Machine
end

