-- ==== Sys2Proof/Machine/Ops.lean ====
section
/-! DEFINITION. The operations on the register rows, the effects of completing a command, of a warning and of a fatal
fault (R200, R201), and what the caller's actions do (R220, R222). -/

namespace Sys2Proof.Machine

/-- The place of a row lane in the order of the register file. -/
def RegCell.key (c : RegCell) : Nat := c.row * 64 + c.lane.val

/-- The canonical form of the register rows: strictly rising row lanes. -/
abbrev RegFile.WF (f : RegFile) : Prop := f.cells.Pairwise fun a b => a.key < b.key

/-- `VR[r][l]` (R8, R30): no side effect. -/
def RegFile.read (f : RegFile) (r : Nat) (l : Lane) : Word :=
  match f.cells.find? (fun c => c.row == r && c.lane == l) with
  | some c => c.value
  | none => Config.unwrittenLane

/-- The row lane has been written since the rows were last unspecified (R22). -/
def RegFile.written (f : RegFile) (r : Nat) (l : Lane) : Bool :=
  f.cells.any (fun c => c.row == r && c.lane == l)

/-- Put a cell into a list in rising order, in place of the one for the same row lane. -/
def insertCell (c : RegCell) : List RegCell → List RegCell
  | [] => [c]
  | d :: ds =>
    if c.key < d.key then c :: d :: ds
    else if c.key = d.key then c :: ds
    else d :: insertCell c ds

/-- `VR[r][l] <- v` (R8). -/
def RegFile.write (f : RegFile) (r : Nat) (l : Lane) (v : Word) : RegFile :=
  { cells := insertCell { row := r, lane := l, value := v } f.cells }

/-- The active lanes of a mask (R125). -/
def activeLanes (m : Mask) : List Lane := (List.finRange 64).filter fun l => m.getLsbD l.val

/-- The commit of a 32-bit result (R131): every listed lane of row `r` receives its staged value, nothing else is
written. The values are computed before (R130), so the order of the lanes is unobservable (log 27). -/
def RegFile.commitRow (f : RegFile) (r : Nat) (lanes : List Lane) (stage : Lane → Word) : RegFile :=
  lanes.foldl (fun g l => g.write r l (stage l)) f

/-- The commit of a 64-bit result (R131): bits 31:0 to row `r`, bits 63:32 to row `r + 1`, together. -/
def RegFile.commitPair (f : RegFile) (r : Nat) (lanes : List Lane) (stage : Lane → Container) : RegFile :=
  lanes.foldl (fun g l =>
    (g.write r l ((stage l).extractLsb' 0 32)).write (r + 1) l ((stage l).extractLsb' 32 32)) f

/-- The block is halted exactly when `PSTAT.FATAL = 1` (R18). -/
def State.halted (s : State) : Bool := pstatFatal s.pstat

/-- A command completes with the register rows `vr` (R126 steps 4 and 5, R200, R60, R15): the position advances by one,
and a warning is recorded in `PSTAT` and in the response. -/
def State.complete (s : State) (warned : Bool) (vr : RegFile) : State :=
  { s with
    vr := vr
    pstat := if warned then pstatAfterWarning s.pstat else s.pstat
    position := s.position + 1
    resp := some (if warned then Response.okWarn else Response.ok) }

/-- `raise Fatal(cause)` (R201): no register is written, `PSTAT` records the cause, the response is `FATAL`, the block
is halted and the position stays. Nothing is saved and nothing is vectored; there is no return but reset (R205). -/
def State.raiseFatal (s : State) (c : Cause) : State :=
  { s with
    pstat := pstatAfterFatal s.pstat c
    resp := some (Response.fatal c) }

/-- The reset event (R220, R221): `PSTAT` is 0, the position is 0, no response is outstanding; the register rows keep
their values. The way out of the halted state. -/
def State.applyReset (s : State) : State :=
  { s with pstat := 0#32, position := 0, resp := none }

/-- A command is accepted: its inputs are sampled (R45) and the caller's next action is the one after it. -/
def State.accept (s : State) (i : Inputs) (rest : List CallerInput) : State :=
  { s with inputs := i, pending := rest }

/-- A caller's write of a row lane between commands (R37, R222 a). -/
def State.callerWrite (s : State) (r : Nat) (l : Lane) (v : Word) : Host.Outcome State Fault Refusal :=
  if r < s.params.nreg then .next { s with vr := s.vr.write r l v } else .fault .noSuchRow

/-- What is left of the caller's actions once the commands in front are passed over. -/
def dropCommands : List CallerInput → List CallerInput
  | .command _ :: rest => dropCommands rest
  | inputs => inputs

/-- The caller's actions from the one the block takes next. A halted block accepts no command (R18): those presented to
it are passed over without any effect, up to the caller's next reset or write of its own (log 6). -/
def State.toTake (s : State) : List CallerInput :=
  if s.halted then dropCommands s.pending else s.pending

/-- Why nothing can be taken: the block is stuck (R18, U13), or the sequence is exhausted (R228 a). -/
def State.endFault (s : State) : Fault := if s.halted then .halted else .noCommand

end Sys2Proof.Machine
end

