-- ==== Sys2Proof/Machine/Operands.lean ====
section
/-! DEFINITION. The catalog (R49), the operand forms (R50 to R52), the checks before execution (R202) and the
Lane-Masked Execution Driver (R126) that applies a per-lane function. -/

namespace Sys2Proof.Machine

/-- What the catalog declares of an opcode (R49). -/
structure Shape where
  /-- The number of sources read. -/
  arity : Nat
  /-- Sources and destination are 64 bits wide (`x64` of R56). -/
  wide : Bool
  /-- Source 0 is an accumulator register (`ACC_READ`). -/
  accSource : Bool
  /-- The destination is an accumulator register (`ACC_WRITE`). -/
  accDest : Bool
  /-- The sign-flip modifiers NEG and NEG_HI apply (R197). -/
  signFlips : Bool
deriving DecidableEq, Repr

/-- A command with `n` 32-bit sources and a 32-bit result. -/
def shape32 (n : Nat) : Shape :=
  { arity := n, wide := false, accSource := false, accDest := false, signFlips := false }

/-- A dual-float arithmetic command with `n` 64-bit sources. -/
def shape64 (n : Nat) : Shape :=
  { arity := n, wide := true, accSource := false, accDest := false, signFlips := true }

/-- The catalog (R49). -/
def catalog : Instr → Shape
  | .pkMadI16 _ => shape32 3
  | .pkMulLoU16 _ => shape32 2
  | .pkAddI16 _ => shape32 2
  | .pkSubI16 _ => shape32 2
  | .pkAddU16 _ => shape32 2
  | .pkSubU16 _ => shape32 2
  | .pkMinI16 _ => shape32 2
  | .pkMaxI16 _ => shape32 2
  | .pkMinU16 _ => shape32 2
  | .pkMaxU16 _ => shape32 2
  | .pkLshlrevB16 _ => shape32 2
  | .pkLshrrevB16 _ => shape32 2
  | .pkAshrrevI16 _ => shape32 2
  | .pkAddF16 _ => shape32 2
  | .pkMulF16 _ => shape32 2
  | .pkMinF16 _ => shape32 2
  | .pkMaxF16 _ => shape32 2
  | .pkFmaF16 _ => shape32 3
  | .dot2I32I16 _ => shape32 3
  | .dot2U32U16 _ => shape32 3
  | .dot4I32I8 _ => shape32 3
  | .dot4U32U8 _ => shape32 3
  | .dot8I32I4 _ => shape32 3
  | .dot8U32U4 _ => shape32 3
  | .dot2F32F16 _ => shape32 3
  | .pkFmaF32 _ => shape64 3
  | .pkMulF32 _ => shape64 2
  | .pkAddF32 _ => shape64 2
  | .pkMovB32 _ => { shape64 2 with signFlips := false }
  | .accRead _ => { shape32 1 with accSource := true }
  | .accWrite _ => { shape32 1 with accDest := true }

/-- The field `SRCk`. -/
def srcField (f : Fields) : Nat → Nat
  | 0 => f.src0
  | 1 => f.src1
  | _ => f.src2

/-- The bit `Uk`: source `k` is uniform (R52). -/
def srcUniform (f : Fields) : Nat → Bool
  | 0 => f.u0
  | 1 => f.u1
  | _ => f.u2

/-- The input `UVALk` (R45). -/
def uniformValue (i : Inputs) : Nat → Container
  | 0 => i.uval0
  | 1 => i.uval1
  | _ => i.uval2

/-- The row source `k` names: the field, plus `ACC_OFFSET` for source 0 of `ACC_READ`. The sum is an integer, never
reduced (R50, R56, R188). -/
def sourceRow (sh : Shape) (f : Fields) (s : State) (k : Nat) : Nat :=
  srcField f k + if sh.accSource && k == 0 then s.inputs.accOffset.toNat else 0

/-- The destination row: `VDST`, plus `ACC_OFFSET` for `ACC_WRITE` (R51). -/
def destRow (sh : Shape) (f : Fields) (s : State) : Nat :=
  f.vdst + if sh.accDest then s.inputs.accOffset.toNat else 0

/-- `x64` of R56: how many rows beyond the named one a view takes. -/
def extraRows (sh : Shape) : Nat := if sh.wide then 1 else 0

/-- Source `k` is a register operand whose rows do not all exist (R56). -/
def sourceOutOfRange (sh : Shape) (f : Fields) (s : State) (k : Nat) : Bool :=
  decide (k < sh.arity) && !srcUniform f k && decide (s.params.nreg ≤ sourceRow sh f s k + extraRows sh)

/-- The rows of the destination do not all exist (R56). -/
def destOutOfRange (sh : Shape) (f : Fields) (s : State) : Bool :=
  decide (s.params.nreg ≤ destRow sh f s + extraRows sh)

/-- A row the command would address lies outside `0..NREG-1` (R199 c). -/
def rowOutOfRange (sh : Shape) (f : Fields) (s : State) : Bool :=
  sourceOutOfRange sh f s 0 || sourceOutOfRange sh f s 1 || sourceOutOfRange sh f s 2 || destOutOfRange sh f s

/-- The checks a decoded command meets, in the order of R202 (steps 3 to 5); the decoder has made steps 1 and 2. -/
def fatalCause (sh : Shape) (f : Fields) (s : State) : Option Cause :=
  if sh.accSource && f.u0 then some .illegalCommand
  else if rowOutOfRange sh f s then some .illegalCommand
  else if f.umod then some .unsupportedMode
  else none

/-- The condition of the warning `MEANINGLESS_MODIFIER` on a command without a fatal fault (R197). -/
def warns (sh : Shape) (f : Fields) : Bool :=
  !sh.signFlips && (f.neg != 0#3 || f.negHi != 0#3)

/-- The value of 32-bit source `k` in lane `l`: a row, or the low 32 bits of the uniform value (R127, R128). -/
def source32 (sh : Shape) (f : Fields) (s : State) (k : Nat) (l : Lane) : Word :=
  if srcUniform f k then (uniformValue s.inputs k).extractLsb' 0 32
  else s.vr.read (sourceRow sh f s k) l

/-- The 64-bit view at row `r` (R12): row `r` holds bits 31:0, row `r + 1` bits 63:32. -/
def RegFile.readPair (f : RegFile) (r : Nat) (l : Lane) : Container := f.read (r + 1) l ++ f.read r l

/-- The value of 64-bit source `k` in lane `l`: a pair of rows, or the uniform value whole (R127, R128). -/
def source64 (sh : Shape) (f : Fields) (s : State) (k : Nat) (l : Lane) : Container :=
  if srcUniform f k then uniformValue s.inputs k
  else s.vr.readPair (sourceRow sh f s k) l

/-- The execution of a decoded command whose evaluated and committed rows are `committed` (R126): a halted block has no
step (R18); a fatal fault writes nothing; otherwise the command completes. -/
def runCommand (sh : Shape) (f : Fields) (s : State) (committed : RegFile) : Host.Outcome State Fault Refusal :=
  if s.halted then .fault .halted
  else match fatalCause sh f s with
    | some c => .next (s.raiseFatal c)
    | none => .next (s.complete (warns sh f) committed)

/-- The driver for a command with 32-bit operands: `op` on every active lane's three source values (a command of
smaller arity does not use the others), all lanes committed at once (R126, R129, R131). -/
def drive32 (sh : Shape) (f : Fields) (s : State) (op : Word → Word → Word → Word) :
    Host.Outcome State Fault Refusal :=
  runCommand sh f s
    (s.vr.commitRow (destRow sh f s) (activeLanes s.inputs.exec) fun l =>
      op (source32 sh f s 0 l) (source32 sh f s 1 l) (source32 sh f s 2 l))

/-- The driver for a command with 64-bit operands (R126, R129, R131). -/
def drive64 (sh : Shape) (f : Fields) (s : State) (op : Container → Container → Container → Container) :
    Host.Outcome State Fault Refusal :=
  runCommand sh f s
    (s.vr.commitPair (destRow sh f s) (activeLanes s.inputs.exec) fun l =>
      op (source64 sh f s 0 l) (source64 sh f s 1 l) (source64 sh f s 2 l))

end Sys2Proof.Machine
end

