-- ==== Sys2Proof/Machine/AccBridge.lean ====
section
/-! DEFINITION. The Accumulator Register Bridge (47_acc_bridge.md): two masked copies of raw 32-bit lane values. -/

namespace Sys2Proof.Machine

/-- `ACC_READ` (R186): row `SRC0 + ACC_OFFSET` to row `VDST`. -/
def execAccRead (f : Fields) (s : State) : Host.Outcome State Fault Refusal :=
  drive32 (catalog (.accRead f)) f s fun s0 _ _ => s0

/-- `ACC_WRITE` (R187): row `SRC0` or a uniform value to row `VDST + ACC_OFFSET`. -/
def execAccWrite (f : Fields) (s : State) : Host.Outcome State Fault Refusal :=
  drive32 (catalog (.accWrite f)) f s fun s0 _ _ => s0

end Sys2Proof.Machine
end

