-- ==== Sys2Proof/Machine/Codec.lean ====
section
/-! DEFINITION. The Packed-Field Codec (R80 to R84). -/

namespace Sys2Proof.Machine

/-- `split(v, W, w)`: the `W / w` fields of width `w`, the least significant first (R81). -/
def split {W : Nat} (v : BitVec W) (w : Nat) : List (BitVec w) :=
  (List.range (W / w)).map fun i => v.extractLsb' (i * w) w

/-- `join(g, w)` into `W` bits, `g[0]` least significant (R83). -/
def join {w : Nat} (W : Nat) : List (BitVec w) → BitVec W
  | [] => 0#W
  | g :: gs => (join W gs <<< w) ||| g.setWidth W

end Sys2Proof.Machine
end

