-- ==== Sys2Proof/Machine/FloatPrims.lean ====
section
/-! DEFINITION. The floating-point primitives (the record FP, R90 to R101) and the two unit clamps (R75, R76). Finite
values are exact integers: every finite value of a format is a multiple of the format's least subnormal, its quantum.
A result is computed exactly and rounded once, to nearest, ties to even (R92). -/

namespace Sys2Proof.Machine

/-- A binary interchange format: widths of exponent and fraction (R90). -/
structure FloatFormat where
  expBits : Nat
  fracBits : Nat
deriving DecidableEq, Repr

/-- binary16 (R90). -/
def binary16 : FloatFormat := { expBits := 5, fracBits := 10 }

/-- binary32 (R90). -/
def binary32 : FloatFormat := { expBits := 8, fracBits := 23 }

/-- The weight of the sign bit. -/
def signWeight (F : FloatFormat) : Nat := 2 ^ (F.expBits + F.fracBits)

/-- The pattern of `+inf`: exponent all ones, fraction 0 (R90). -/
def infPattern (F : FloatFormat) : Nat := (2 ^ F.expBits - 1) * 2 ^ F.fracBits

/-- The sign bit of a pattern. -/
def isNegative (F : FloatFormat) (p : Nat) : Bool := decide (signWeight F ≤ p % (2 * signWeight F))

/-- A pattern without its sign bit. -/
def magnitude (F : FloatFormat) (p : Nat) : Nat := p % signWeight F

/-- Exponent all ones and fraction not zero (R90). -/
def isNaN (F : FloatFormat) (p : Nat) : Bool := decide (infPattern F < magnitude F p)

/-- Exponent all ones and fraction zero (R90). -/
def isInf (F : FloatFormat) (p : Nat) : Bool := decide (magnitude F p = infPattern F)

/-- A zero of either sign (R90). -/
def isZero (F : FloatFormat) (p : Nat) : Bool := decide (magnitude F p = 0)

/-- `n` such that the format's quantum is `2^-n`: 24 for binary16, 149 for binary32 (R90). -/
def quantumLog (F : FloatFormat) : Nat := F.fracBits + 2 ^ (F.expBits - 1) - 2

/-- The absolute value of a finite pattern in quanta (R90): a subnormal is its fraction, a normal one its significand
shifted by the exponent. -/
def quanta (F : FloatFormat) (p : Nat) : Nat :=
  let m := magnitude F p
  let e := m / 2 ^ F.fracBits
  if e = 0 then m else (2 ^ F.fracBits + m % 2 ^ F.fracBits) * 2 ^ (e - 1)

/-- The value of a finite pattern in quanta. -/
def signedQuanta (F : FloatFormat) (p : Nat) : Int :=
  if isNegative F p then -(quanta F p : Int) else (quanta F p : Int)

/-- The pattern with a sign and a magnitude. -/
def pack (F : FloatFormat) (negative : Bool) (m : Nat) : Nat := (if negative then signWeight F else 0) + m

/-- The quotient `m / 2^k` rounded to the nearest integer, ties to even. -/
def roundShift (m k : Nat) : Nat :=
  let q := m / 2 ^ k
  let r := m % 2 ^ k
  if 2 ^ k < 2 * r ∨ (2 * r = 2 ^ k ∧ q % 2 = 1) then q + 1 else q

/-- The magnitude pattern nearest to `m / 2^k` quanta (R92, R96 a and b): `fracBits + 1` significant bits are kept, or
the bits above one quantum where those are fewer (gradual underflow, R95); beyond the largest finite value, infinity.
A significand that rounds up to the next power of two carries into the exponent. -/
def roundQuanta (F : FloatFormat) (m k : Nat) : Nat :=
  let sh := max k (m.log2 - F.fracBits)
  min ((sh - k) * 2 ^ F.fracBits + roundShift m sh) (infPattern F)

/-- The pattern nearest to `z / 2^k` quanta; a zero takes the sign given (R96 a). -/
def roundSigned (F : FloatFormat) (z : Int) (zeroNegative : Bool) (k : Nat) : Nat :=
  if z = 0 then pack F zeroNegative 0 else pack F (decide (z < 0)) (roundQuanta F z.natAbs k)

/-- `a + b` rounded once, `none` where the result is a NaN (R91, R94, R96). -/
def addPattern (F : FloatFormat) (a b : Nat) : Option Nat :=
  if isNaN F a || isNaN F b then none
  else if isInf F a then
    if isInf F b && isNegative F a != isNegative F b then none else some a
  else if isInf F b then some b
  else some (roundSigned F (signedQuanta F a + signedQuanta F b) (isNegative F a && isNegative F b) 0)

/-- `a * b` rounded once, `none` where the result is a NaN. The sign is the exclusive-or of the signs (R96 a). -/
def mulPattern (F : FloatFormat) (a b : Nat) : Option Nat :=
  let negative := isNegative F a != isNegative F b
  if isNaN F a || isNaN F b then none
  else if isInf F a || isInf F b then
    if isZero F a || isZero F b then none else some (pack F negative (infPattern F))
  else some (pack F negative (roundQuanta F (quanta F a * quanta F b) (quantumLog F)))

/-- `a * b + c`, the product not rounded, the sum rounded once; `none` where the result is a NaN (R91, R94). -/
def fmaPattern (F : FloatFormat) (a b c : Nat) : Option Nat :=
  let negative := isNegative F a != isNegative F b
  if isNaN F a || isNaN F b || isNaN F c then none
  else if isInf F a || isInf F b then
    if isZero F a || isZero F b then none
    else if isInf F c && isNegative F c != negative then none
    else some (pack F negative (infPattern F))
  else if isInf F c then some c
  else some (roundSigned F
    (signedQuanta F a * signedQuanta F b + signedQuanta F c * 2 ^ quantumLog F)
    (negative && isNegative F c) (quantumLog F))

/-- A NaN of binary16: the free pattern where it is one (R94), else the quiet NaN of R90. Every NaN is reached. -/
def asNaN16 (p : Half) : Half := if isNaN binary16 p.toNat then p else 0x7E00#16

/-- A NaN of binary32, as `asNaN16`. -/
def asNaN32 (p : Word) : Word := if isNaN binary32 p.toNat then p else 0x7FC00000#32

/-- `FP.add16` (R91). -/
def fpAdd16 (a b : Half) : Half :=
  match addPattern binary16 a.toNat b.toNat with
  | some p => BitVec.ofNat 16 p
  | none => asNaN16 (Config.nanAdd16 a b)

/-- `FP.mul16` (R91). -/
def fpMul16 (a b : Half) : Half :=
  match mulPattern binary16 a.toNat b.toNat with
  | some p => BitVec.ofNat 16 p
  | none => asNaN16 (Config.nanMul16 a b)

/-- `FP.fma16(a, b, c) = a * b + c` (R91). -/
def fpFma16 (a b c : Half) : Half :=
  match fmaPattern binary16 a.toNat b.toNat c.toNat with
  | some p => BitVec.ofNat 16 p
  | none => asNaN16 (Config.nanFma16 a b c)

/-- `FP.add32` (R91). -/
def fpAdd32 (a b : Word) : Word :=
  match addPattern binary32 a.toNat b.toNat with
  | some p => BitVec.ofNat 32 p
  | none => asNaN32 (Config.nanAdd32 a b)

/-- `FP.mul32` (R91). -/
def fpMul32 (a b : Word) : Word :=
  match mulPattern binary32 a.toNat b.toNat with
  | some p => BitVec.ofNat 32 p
  | none => asNaN32 (Config.nanMul32 a b)

/-- `FP.fma32(a, b, c) = a * b + c` (R91). -/
def fpFma32 (a b c : Word) : Word :=
  match fmaPattern binary32 a.toNat b.toNat c.toNat with
  | some p => BitVec.ofNat 32 p
  | none => asNaN32 (Config.nanFma32 a b c)

/-- The order of the non-NaN values of a format: both zeros are 0, infinities are outermost. -/
def orderKey (F : FloatFormat) (p : Nat) : Int :=
  if isNegative F p then -(magnitude F p : Int) else (magnitude F p : Int)

/-- A zero of binary16 with the sign given. -/
def zero16 (negative : Bool) : Half := if negative then 0x8000#16 else 0x0000#16

/-- `FP.min16` (R97): the lesser operand; free on a NaN operand and in the sign for the two zeros of opposite sign. -/
def fpMin16 (a b : Half) : Half :=
  if isNaN binary16 a.toNat || isNaN binary16 b.toNat then Config.minWithNaN a b
  else if orderKey binary16 a.toNat < orderKey binary16 b.toNat then a
  else if orderKey binary16 b.toNat < orderKey binary16 a.toNat then b
  else if a = b then a
  else zero16 (Config.minZeroIsNegative a b)

/-- `FP.max16` (R97): the greater operand; free as `fpMin16`. -/
def fpMax16 (a b : Half) : Half :=
  if isNaN binary16 a.toNat || isNaN binary16 b.toNat then Config.maxWithNaN a b
  else if orderKey binary16 b.toNat < orderKey binary16 a.toNat then a
  else if orderKey binary16 a.toNat < orderKey binary16 b.toNat then b
  else if a = b then a
  else zero16 (Config.maxZeroIsNegative a b)

/-- `FP.cvt16to32` (R98): exact, `2^-24 = 2^125 * 2^-149`; zeros and infinities keep their sign, a NaN gives a NaN. -/
def fpCvt16to32 (a : Half) : Word :=
  let p := a.toNat
  if isNaN binary16 p then asNaN32 (Config.nanCvt16to32 a)
  else if isInf binary16 p then BitVec.ofNat 32 (pack binary32 (isNegative binary16 p) (infPattern binary32))
  else BitVec.ofNat 32 (pack binary32 (isNegative binary16 p)
    (roundQuanta binary32 (quanta binary16 p * 2 ^ (quantumLog binary32 - quantumLog binary16)) 0))

/-- The pattern of 1.0 in binary32 (R75). -/
def one32 : Word := 0x3F800000#32

/-- The pattern of 1.0 in binary16 (R76). -/
def one16 : Half := 0x3C00#16

/-- The single-precision unit clamp `uclamp32(x, c)` (R75): two ordered comparisons, false on a NaN; `-0.0 < 0.0` is
false. -/
def uclamp32 (x : Word) (c : Bool) : Word :=
  if !c || isNaN binary32 x.toNat then x
  else if orderKey binary32 x.toNat < 0 then 0#32
  else if orderKey binary32 one32.toNat < orderKey binary32 x.toNat then one32
  else x

/-- The half-precision unit clamp `hclamp16(x, c)` (R76): minimum with 1.0, then maximum with +0.0. -/
def hclamp16 (x : Half) (c : Bool) : Half := if c then fpMax16 (fpMin16 x one16) 0x0000#16 else x

end Sys2Proof.Machine
end

