-- ==== Sys2Proof/Machine/Saturation.lean ====
section
/-! DEFINITION. The Saturation Library on integers (R70 to R74). -/

namespace Sys2Proof.Machine

/-- `sat_s(N, z)` (R70). -/
def satS (n : Nat) (z : Int) : Int :=
  if z < -(2 ^ (n - 1)) then -(2 ^ (n - 1))
  else if z > 2 ^ (n - 1) - 1 then 2 ^ (n - 1) - 1
  else z

/-- `sat_u(N, z)` of an integer that may be negative (R71). -/
def satU (n : Nat) (z : Int) : Int :=
  if z < 0 then 0 else if z > 2 ^ n - 1 then 2 ^ n - 1 else z

/-- `trunc_N(z)`: the low `N` bits of the two's complement of `z` (R7). -/
def trunc (n : Nat) (z : Int) : BitVec n := BitVec.ofInt n z

/-- `clamp_s(N, z, c)` (R72). -/
def clampS (n : Nat) (z : Int) (c : Bool) : BitVec n := if c then trunc n (satS n z) else trunc n z

/-- `clamp_u(N, z, c)` (R73). -/
def clampU (n : Nat) (z : Int) (c : Bool) : BitVec n := if c then trunc n (satU n z) else trunc n z

/-- `clampI16` (R74). -/
def clampI16 (z : Int) (c : Bool) : Half := clampS 16 z c

/-- `clampU16` (R74). -/
def clampU16 (z : Int) (c : Bool) : Half := clampU 16 z c

end Sys2Proof.Machine
end

