-- ==== Sys2Proof/Machine/DotProduct.lean ====
section
/-! DEFINITION. The Dot-Product Reducer (43_dot_product.md): multiply, clamp each product, sum, add the bias. -/

namespace Sys2Proof.Machine

/-- `dot_s(w, S0, S1, S2, CLAMP)` (R111): the sum is taken modulo 2^32. -/
def dotS (w : Nat) (s0 s1 s2 : Word) (c : Bool) : Word :=
  trunc 32 ((List.zipWith (fun a b => (clampS w (a.toInt * b.toInt) c).toInt) (split s0 w) (split s1 w)).sum
    + s2.toInt)

/-- `dot_u(w, S0, S1, S2, CLAMP)` (R112). -/
def dotU (w : Nat) (s0 s1 s2 : Word) (c : Bool) : Word :=
  trunc 32 ((List.zipWith (fun a b => ((clampU w ((a.toNat : Int) * b.toNat) c).toNat : Int))
    (split s0 w) (split s1 w)).sum + (s2.toNat : Int))

/-- One component of the floating dot product (R119): the product rounded to binary16, widened, unit-clamped. -/
def dotComponent (c : Bool) (a b : Half) : Word := uclamp32 (fpCvt16to32 (fpMul16 a b)) c

/-- The floating dot product (R119): from +0.0, the components in ascending order, the bias last. -/
def dotF (s0 s1 s2 : Word) (c : Bool) : Word :=
  fpAdd32 ((List.zipWith (dotComponent c) (split s0 16) (split s1 16)).foldl fpAdd32 0#32) s2

/-- `DOT2_I32_I16` (R113). -/
def execDot2I32I16 (f : Fields) (s : State) : Host.Outcome State Fault Refusal :=
  drive32 (catalog (.dot2I32I16 f)) f s fun s0 s1 s2 => dotS 16 s0 s1 s2 f.clamp

/-- `DOT2_U32_U16` (R114). -/
def execDot2U32U16 (f : Fields) (s : State) : Host.Outcome State Fault Refusal :=
  drive32 (catalog (.dot2U32U16 f)) f s fun s0 s1 s2 => dotU 16 s0 s1 s2 f.clamp

/-- `DOT4_I32_I8` (R115). -/
def execDot4I32I8 (f : Fields) (s : State) : Host.Outcome State Fault Refusal :=
  drive32 (catalog (.dot4I32I8 f)) f s fun s0 s1 s2 => dotS 8 s0 s1 s2 f.clamp

/-- `DOT4_U32_U8` (R116). -/
def execDot4U32U8 (f : Fields) (s : State) : Host.Outcome State Fault Refusal :=
  drive32 (catalog (.dot4U32U8 f)) f s fun s0 s1 s2 => dotU 8 s0 s1 s2 f.clamp

/-- `DOT8_I32_I4` (R117). -/
def execDot8I32I4 (f : Fields) (s : State) : Host.Outcome State Fault Refusal :=
  drive32 (catalog (.dot8I32I4 f)) f s fun s0 s1 s2 => dotS 4 s0 s1 s2 f.clamp

/-- `DOT8_U32_U4` (R118). -/
def execDot8U32U4 (f : Fields) (s : State) : Host.Outcome State Fault Refusal :=
  drive32 (catalog (.dot8U32U4 f)) f s fun s0 s1 s2 => dotU 4 s0 s1 s2 f.clamp

/-- `DOT2_F32_F16` (R119). -/
def execDot2F32F16 (f : Fields) (s : State) : Host.Outcome State Fault Refusal :=
  drive32 (catalog (.dot2F32F16 f)) f s fun s0 s1 s2 => dotF s0 s1 s2 f.clamp

end Sys2Proof.Machine
end

