-- ==== Sys2Proof/Machine/DualFloat.lean ====
section
/-! DEFINITION. The Packed-32 Dual-Lane Float ALU (46_packed32_dual_float.md): two binary32 results per 64-bit
container, with half selection and sign flip per source. -/

namespace Sys2Proof.Machine

/-- `sel(S, b)`: the low half for 0, the high half for 1 (R171). -/
def selectHalf (v : Container) (b : Bool) : Word := if b then v.extractLsb' 32 32 else v.extractLsb' 0 32

/-- `flip(x, b)`: invert the sign bit, of every pattern alike (R172, R101). -/
def flipSign (x : Word) (b : Bool) : Word := if b then x ^^^ 0x80000000#32 else x

/-- The operand of one result half taken from a source: select, then flip (R170). -/
def halfOperand (v : Container) (sel neg : Bool) : Word := flipSign (selectHalf v sel) neg

/-- A two-source dual-float command (R170, R174, R175): bits 0 and 1 of each modifier field are used (R179). -/
def dualFloat2 (op : Word → Word → Word) (f : Fields) (s0 s1 : Container) : Container :=
  join 64 [op (halfOperand s0 (f.opsel.getLsbD 0) (f.neg.getLsbD 0))
              (halfOperand s1 (f.opsel.getLsbD 1) (f.neg.getLsbD 1)),
           op (halfOperand s0 (f.opselHi.getLsbD 0) (f.negHi.getLsbD 0))
              (halfOperand s1 (f.opselHi.getLsbD 1) (f.negHi.getLsbD 1))]

/-- `nb(k, F)` of R173: bit `k` of a NEG field, or bit 0 for every source under `PKFMA_NEG_BIT0_ONLY`. -/
def fmaNegBit (bit0Only : Bool) (field : BitVec 3) (k : Nat) : Bool :=
  if bit0Only then field.getLsbD 0 else field.getLsbD k

/-- The three-operand form (R170, R173). -/
def dualFloat3 (op : Word → Word → Word → Word) (bit0Only : Bool) (f : Fields) (s0 s1 s2 : Container) : Container :=
  join 64 [op (halfOperand s0 (f.opsel.getLsbD 0) (fmaNegBit bit0Only f.neg 0))
              (halfOperand s1 (f.opsel.getLsbD 1) (fmaNegBit bit0Only f.neg 1))
              (halfOperand s2 (f.opsel.getLsbD 2) (fmaNegBit bit0Only f.neg 2)),
           op (halfOperand s0 (f.opselHi.getLsbD 0) (fmaNegBit bit0Only f.negHi 0))
              (halfOperand s1 (f.opselHi.getLsbD 1) (fmaNegBit bit0Only f.negHi 1))
              (halfOperand s2 (f.opselHi.getLsbD 2) (fmaNegBit bit0Only f.negHi 2))]

/-- `PK_FMA_F32` (R173). -/
def execPkFmaF32 (f : Fields) (s : State) : Host.Outcome State Fault Refusal :=
  drive64 (catalog (.pkFmaF32 f)) f s fun s0 s1 s2 =>
    dualFloat3 fpFma32 s.params.pkfmaNegBit0Only f s0 s1 s2

/-- `PK_MUL_F32` (R174). -/
def execPkMulF32 (f : Fields) (s : State) : Host.Outcome State Fault Refusal :=
  drive64 (catalog (.pkMulF32 f)) f s fun s0 s1 _ => dualFloat2 fpMul32 f s0 s1

/-- `PK_ADD_F32` (R175). -/
def execPkAddF32 (f : Fields) (s : State) : Host.Outcome State Fault Refusal :=
  drive64 (catalog (.pkAddF32 f)) f s fun s0 s1 _ => dualFloat2 fpAdd32 f s0 s1

/-- `PK_MOV_B32` (R176): the low half from source 0 by `OPSEL[0]`, the high half from source 1 by `OPSEL_HI[1]`, bit
for bit and without sign flip. -/
def execPkMovB32 (f : Fields) (s : State) : Host.Outcome State Fault Refusal :=
  drive64 (catalog (.pkMovB32 f)) f s fun s0 s1 _ =>
    join 64 [selectHalf s0 (f.opsel.getLsbD 0), selectHalf s1 (f.opselHi.getLsbD 1)]

end Sys2Proof.Machine
end

