-- ==== Sys2Proof/Machine/Packed16.lean ====
section
/-! DEFINITION. The Packed-16 ALU (45_packed16.md): eighteen commands, each a function on the two 16-bit fields of a
lane value. -/

namespace Sys2Proof.Machine

/-- R140 for a command with two sources: `op` on field `i` of each, for both fields. -/
def perField2 (op : Half → Half → Half) (s0 s1 : Word) : Word :=
  join 32 (List.zipWith op (split s0 16) (split s1 16))

/-- R140 for a command with three sources. -/
def perField3 (op : Half → Half → Half → Half) (s0 s1 s2 : Word) : Word :=
  join 32 (List.zipWith (fun ab c => op ab.1 ab.2 c) (List.zip (split s0 16) (split s1 16)) (split s2 16))

/-- The shift count: `S0 & 0xF` (R151). -/
def shiftCount (x : Half) : Nat := x.toNat % 16

/-- `PK_MAD_I16` (R141). -/
def execPkMadI16 (f : Fields) (s : State) : Host.Outcome State Fault Refusal :=
  drive32 (catalog (.pkMadI16 f)) f s fun s0 s1 s2 =>
    perField3 (fun x y z => clampI16 (x.toInt * y.toInt + z.toInt) f.clamp) s0 s1 s2

/-- `PK_MUL_LO_U16` (R142). -/
def execPkMulLoU16 (f : Fields) (s : State) : Host.Outcome State Fault Refusal :=
  drive32 (catalog (.pkMulLoU16 f)) f s fun s0 s1 _ =>
    perField2 (fun x y => trunc 16 (x.toNat * y.toNat)) s0 s1

/-- `PK_ADD_I16` (R143). -/
def execPkAddI16 (f : Fields) (s : State) : Host.Outcome State Fault Refusal :=
  drive32 (catalog (.pkAddI16 f)) f s fun s0 s1 _ =>
    perField2 (fun x y => clampI16 (x.toInt + y.toInt) f.clamp) s0 s1

/-- `PK_SUB_I16` (R144). -/
def execPkSubI16 (f : Fields) (s : State) : Host.Outcome State Fault Refusal :=
  drive32 (catalog (.pkSubI16 f)) f s fun s0 s1 _ =>
    perField2 (fun x y => clampI16 (x.toInt - y.toInt) f.clamp) s0 s1

/-- `PK_ADD_U16` (R145). -/
def execPkAddU16 (f : Fields) (s : State) : Host.Outcome State Fault Refusal :=
  drive32 (catalog (.pkAddU16 f)) f s fun s0 s1 _ =>
    perField2 (fun x y => clampU16 ((x.toNat : Int) + y.toNat) f.clamp) s0 s1

/-- `PK_SUB_U16` (R146): the difference may be negative (R71). -/
def execPkSubU16 (f : Fields) (s : State) : Host.Outcome State Fault Refusal :=
  drive32 (catalog (.pkSubU16 f)) f s fun s0 s1 _ =>
    perField2 (fun x y => clampU16 ((x.toNat : Int) - y.toNat) f.clamp) s0 s1

/-- `PK_MIN_I16` (R147). -/
def execPkMinI16 (f : Fields) (s : State) : Host.Outcome State Fault Refusal :=
  drive32 (catalog (.pkMinI16 f)) f s fun s0 s1 _ =>
    perField2 (fun x y => clampI16 (if x.toInt ≤ y.toInt then x.toInt else y.toInt) f.clamp) s0 s1

/-- `PK_MAX_I16` (R148). -/
def execPkMaxI16 (f : Fields) (s : State) : Host.Outcome State Fault Refusal :=
  drive32 (catalog (.pkMaxI16 f)) f s fun s0 s1 _ =>
    perField2 (fun x y => clampI16 (if x.toInt ≥ y.toInt then x.toInt else y.toInt) f.clamp) s0 s1

/-- `PK_MIN_U16` (R149). -/
def execPkMinU16 (f : Fields) (s : State) : Host.Outcome State Fault Refusal :=
  drive32 (catalog (.pkMinU16 f)) f s fun s0 s1 _ =>
    perField2 (fun x y => clampU16 (if x.toNat ≤ y.toNat then x.toNat else y.toNat) f.clamp) s0 s1

/-- `PK_MAX_U16` (R150). -/
def execPkMaxU16 (f : Fields) (s : State) : Host.Outcome State Fault Refusal :=
  drive32 (catalog (.pkMaxU16 f)) f s fun s0 s1 _ =>
    perField2 (fun x y => clampU16 (if x.toNat ≥ y.toNat then x.toNat else y.toNat) f.clamp) s0 s1

/-- `PK_LSHLREV_B16` (R151): source 0 is the count, source 1 the value. -/
def execPkLshlrevB16 (f : Fields) (s : State) : Host.Outcome State Fault Refusal :=
  drive32 (catalog (.pkLshlrevB16 f)) f s fun s0 s1 _ =>
    perField2 (fun x y => trunc 16 (y.toNat * 2 ^ shiftCount x)) s0 s1

/-- `PK_LSHRREV_B16` (R152). -/
def execPkLshrrevB16 (f : Fields) (s : State) : Host.Outcome State Fault Refusal :=
  drive32 (catalog (.pkLshrrevB16 f)) f s fun s0 s1 _ =>
    perField2 (fun x y => trunc 16 (y.toNat / 2 ^ shiftCount x)) s0 s1

/-- `PK_ASHRREV_I16` (R153): the quotient is rounded toward minus infinity. -/
def execPkAshrrevI16 (f : Fields) (s : State) : Host.Outcome State Fault Refusal :=
  drive32 (catalog (.pkAshrrevI16 f)) f s fun s0 s1 _ =>
    perField2 (fun x y => trunc 16 (y.toInt / 2 ^ shiftCount x)) s0 s1

/-- `PK_ADD_F16` (R154). -/
def execPkAddF16 (f : Fields) (s : State) : Host.Outcome State Fault Refusal :=
  drive32 (catalog (.pkAddF16 f)) f s fun s0 s1 _ =>
    perField2 (fun x y => hclamp16 (fpAdd16 x y) f.clamp) s0 s1

/-- `PK_MUL_F16` (R155). -/
def execPkMulF16 (f : Fields) (s : State) : Host.Outcome State Fault Refusal :=
  drive32 (catalog (.pkMulF16 f)) f s fun s0 s1 _ =>
    perField2 (fun x y => hclamp16 (fpMul16 x y) f.clamp) s0 s1

/-- `PK_MIN_F16` (R156). -/
def execPkMinF16 (f : Fields) (s : State) : Host.Outcome State Fault Refusal :=
  drive32 (catalog (.pkMinF16 f)) f s fun s0 s1 _ =>
    perField2 (fun x y => hclamp16 (fpMin16 x y) f.clamp) s0 s1

/-- `PK_MAX_F16` (R157). -/
def execPkMaxF16 (f : Fields) (s : State) : Host.Outcome State Fault Refusal :=
  drive32 (catalog (.pkMaxF16 f)) f s fun s0 s1 _ =>
    perField2 (fun x y => hclamp16 (fpMax16 x y) f.clamp) s0 s1

/-- `PK_FMA_F16` (R158): `S0 * S1 + S2`, one rounding. -/
def execPkFmaF16 (f : Fields) (s : State) : Host.Outcome State Fault Refusal :=
  drive32 (catalog (.pkFmaF16 f)) f s fun s0 s1 s2 =>
    perField3 (fun x y z => hclamp16 (fpFma16 x y z) f.clamp) s0 s1 s2

end Sys2Proof.Machine
end

