-- ==== Sys2Proof/Machine/Dispatch.lean ====
section
/-! DEFINITION. The meaning of each command of the catalog (R48). -/

namespace Sys2Proof.Machine

def exec (i : Instr) (s : State) : Host.Outcome State Fault Refusal :=
  match i with
  | .pkMadI16 f => Sys2Proof.Machine.execPkMadI16 f s
  | .pkMulLoU16 f => Sys2Proof.Machine.execPkMulLoU16 f s
  | .pkAddI16 f => Sys2Proof.Machine.execPkAddI16 f s
  | .pkSubI16 f => Sys2Proof.Machine.execPkSubI16 f s
  | .pkAddU16 f => Sys2Proof.Machine.execPkAddU16 f s
  | .pkSubU16 f => Sys2Proof.Machine.execPkSubU16 f s
  | .pkMinI16 f => Sys2Proof.Machine.execPkMinI16 f s
  | .pkMaxI16 f => Sys2Proof.Machine.execPkMaxI16 f s
  | .pkMinU16 f => Sys2Proof.Machine.execPkMinU16 f s
  | .pkMaxU16 f => Sys2Proof.Machine.execPkMaxU16 f s
  | .pkLshlrevB16 f => Sys2Proof.Machine.execPkLshlrevB16 f s
  | .pkLshrrevB16 f => Sys2Proof.Machine.execPkLshrrevB16 f s
  | .pkAshrrevI16 f => Sys2Proof.Machine.execPkAshrrevI16 f s
  | .pkAddF16 f => Sys2Proof.Machine.execPkAddF16 f s
  | .pkMulF16 f => Sys2Proof.Machine.execPkMulF16 f s
  | .pkMinF16 f => Sys2Proof.Machine.execPkMinF16 f s
  | .pkMaxF16 f => Sys2Proof.Machine.execPkMaxF16 f s
  | .pkFmaF16 f => Sys2Proof.Machine.execPkFmaF16 f s
  | .dot2I32I16 f => Sys2Proof.Machine.execDot2I32I16 f s
  | .dot2U32U16 f => Sys2Proof.Machine.execDot2U32U16 f s
  | .dot4I32I8 f => Sys2Proof.Machine.execDot4I32I8 f s
  | .dot4U32U8 f => Sys2Proof.Machine.execDot4U32U8 f s
  | .dot8I32I4 f => Sys2Proof.Machine.execDot8I32I4 f s
  | .dot8U32U4 f => Sys2Proof.Machine.execDot8U32U4 f s
  | .dot2F32F16 f => Sys2Proof.Machine.execDot2F32F16 f s
  | .pkFmaF32 f => Sys2Proof.Machine.execPkFmaF32 f s
  | .pkMulF32 f => Sys2Proof.Machine.execPkMulF32 f s
  | .pkAddF32 f => Sys2Proof.Machine.execPkAddF32 f s
  | .pkMovB32 f => Sys2Proof.Machine.execPkMovB32 f s
  | .accRead f => Sys2Proof.Machine.execAccRead f s
  | .accWrite f => Sys2Proof.Machine.execAccWrite f s

end Sys2Proof.Machine
end

