-- ==== Sys2Proof/Machine/Step.lean ====
section
/-! DEFINITION. One step: the block takes the caller's next action (R5, R37, R227). -/

namespace Sys2Proof.Machine

/-- One step. A command is decoded and executed with its inputs; a word that is no command of the catalog is an illegal
command (R202 steps 1 and 2). -/
def step (s : State) : Host.Outcome State Fault Refusal :=
  match s.toTake with
  | [] => .fault s.endFault
  | .reset :: rest => .next ({ s with pending := rest } : State).applyReset
  | .writeLane r l v :: rest => ({ s with pending := rest } : State).callerWrite r l v
  | .command c :: rest =>
    match decode c.word with
    | .error _ => .next ((s.accept c.inputs rest).raiseFatal .illegalCommand)
    | .ok i => exec i (s.accept c.inputs rest)

/-- The state in which the caller presents next the command word whose bits are `w`, with the inputs last sampled
(log 22). Stands for the load of a program from outside the block. -/
def State.withFetchWord (s : State) (nbits w : Nat) : State :=
  { s with
    pending := .command { word := BitVec.ofNat 64 (w % 2 ^ nbits), inputs := s.inputs } :: s.pending }

end Sys2Proof.Machine
end

