-- ==== Sys2Proof/Safety.lean ====
section
/-! DEFINITION. The terms claims use: when a command executes, what its completion leaves, the invariant of the
machine, and the runs the spec's start-up requirements allow. -/

namespace Sys2Proof.Machine

/-- Lane `l` is active for the command being executed (R125). -/
def State.laneActive (s : State) (l : Lane) : Prop := s.inputs.exec.getLsbD l.val = true

/-- The register operands of a command exist and it marks nothing uniform that cannot be: it is not an illegal command
(R56). -/
def OperandsLegal (i : Instr) (s : State) : Prop :=
  ((catalog i).accSource = true → i.fields.u0 = false) ∧
  (∀ k, k < (catalog i).arity → srcUniform i.fields k = false →
    sourceRow (catalog i) i.fields s k + extraRows (catalog i) < s.params.nreg) ∧
  destRow (catalog i) i.fields s + extraRows (catalog i) < s.params.nreg

/-- The conditions under which a command executes (R202 step 7): the block is not halted and no fatal check fires. -/
def Executes (i : Instr) (s : State) : Prop :=
  s.halted = false ∧ OperandsLegal i s ∧ i.fields.umod = false

/-- What a completed command reports and leaves beside the register rows (R15, R60, R200): the position is advanced by
one; a warning sets WARN, sets CAUSE to 1 unless FATAL is set, and responds `OK_WARN`; without a warning `PSTAT` is
unchanged and the response is `OK`; the model's own fields are unchanged. -/
def Reported (i : Instr) (s t : State) : Prop :=
  t.position = s.position + 1 ∧
  (if warns (catalog i) i.fields = true then
    pstatWarn t.pstat = true ∧ pstatFatal t.pstat = pstatFatal s.pstat ∧
    (pstatFatal s.pstat = false → pstatCause t.pstat = 1#4) ∧
    t.pstat &&& 0xFFFFFF0C#32 = s.pstat &&& 0xFFFFFF0C#32 ∧
    t.resp = some { code := 1#2, cause := 1#4 }
   else t.pstat = s.pstat ∧ t.resp = some { code := 0#2, cause := 0#4 }) ∧
  t.inputs = s.inputs ∧ t.pending = s.pending ∧ t.params = s.params

/-- A command with a 32-bit result completed: every active lane of the destination row satisfies `value`, every other
row lane is as before (R131), and the rest is as `Reported` says. -/
def Completed32 (i : Instr) (s t : State) (value : Lane → Word → Prop) : Prop :=
  (∀ l, s.laneActive l → value l (t.vr.read (destRow (catalog i) i.fields s) l)) ∧
  (∀ r l, (r ≠ destRow (catalog i) i.fields s ∨ ¬ s.laneActive l) → t.vr.read r l = s.vr.read r l) ∧
  Reported i s t

/-- A command with a 64-bit result completed: bits 31:0 in the destination row, bits 63:32 in the next (R131). -/
def Completed64 (i : Instr) (s t : State) (low high : Lane → Word) : Prop :=
  (∀ l, s.laneActive l →
    t.vr.read (destRow (catalog i) i.fields s) l = low l ∧
    t.vr.read (destRow (catalog i) i.fields s + 1) l = high l) ∧
  (∀ r l, ((r ≠ destRow (catalog i) i.fields s ∧ r ≠ destRow (catalog i) i.fields s + 1) ∨ ¬ s.laneActive l) →
    t.vr.read r l = s.vr.read r l) ∧
  Reported i s t

/-- The command was aborted by a fatal fault (R201): no register row is written, FATAL and CAUSE are set, WARN and the
other bits of `PSTAT` and the position are unchanged, the response is `FATAL` with the cause. -/
def Aborted (c : BitVec 4) (s t : State) : Prop :=
  t.vr = s.vr ∧ pstatFatal t.pstat = true ∧ pstatCause t.pstat = c ∧
  t.pstat &&& 0xFFFFFF0D#32 = s.pstat &&& 0xFFFFFF0D#32 ∧
  t.resp = some { code := 2#2, cause := c } ∧ t.position = s.position ∧
  t.inputs = s.inputs ∧ t.pending = s.pending ∧ t.params = s.params

/-- 16-bit field `i` of a lane value: bits `16 i + 15` to `16 i` (R81). -/
def field16 (v : Word) (i : Nat) : Half := v.extractLsb' (16 * i) 16

/-- `PSTAT` reads as R17 and R206 say: reserved bits 0; CAUSE 2 or 3 if FATAL, else 1 if WARN, else 0. -/
def PstatLegal (p : Word) : Prop :=
  pstatReservedClear p = true ∧
  (if pstatFatal p = true then pstatCause p = 2#4 ∨ pstatCause p = 3#4
   else if pstatWarn p = true then pstatCause p = 1#4
   else pstatCause p = 0#4)

/-- The last response agrees with `PSTAT` (R60, R206): FATAL is set exactly if the last command responded `FATAL`, with
the same cause; an `OK_WARN` is recorded in WARN; before the first response nothing is recorded. -/
def RespLegal (s : State) : Prop :=
  match s.resp with
  | none => s.pstat = 0#32
  | some r =>
    (r = { code := 0#2, cause := 0#4 } ∧ s.halted = false) ∨
    (r = { code := 1#2, cause := 1#4 } ∧ s.halted = false ∧ pstatWarn s.pstat = true) ∨
    (r.code = 2#2 ∧ r.cause = pstatCause s.pstat ∧ s.halted = true)

/-- The invariant of the machine: the register rows are in canonical form and within `0..NREG-1`, the parameters are in
range, `PSTAT` and the last response are legal and agree. -/
def State.Inv (s : State) : Prop :=
  s.vr.WF ∧ (∀ c ∈ s.vr.cells, c.row < s.params.nreg) ∧ s.params.WF ∧ PstatLegal s.pstat ∧ RespLegal s

/-- Two states that differ at most in register rows, with the same values in lane `l`. -/
def SameInLane (l : Lane) (s t : State) : Prop :=
  s = { t with vr := s.vr } ∧ ∀ r, s.vr.read r l = t.vr.read r l

/-- A command reads, in its active lanes, only row lanes that have been written (R222 a). The spec asks a model to treat
any other read as a fault of the model (R22, D31); this model reads `Config.unwrittenLane` there (log 3), and a claim
about a run the spec allows takes this as its hypothesis. -/
def ReadsOnlyWritten (i : Instr) (s : State) : Prop :=
  ∀ k, k < (catalog i).arity → srcUniform i.fields k = false → ∀ l, s.laneActive l →
    s.vr.written (sourceRow (catalog i) i.fields s k) l = true ∧
    ((catalog i).wide = true → s.vr.written (sourceRow (catalog i) i.fields s k + 1) l = true)

/-- A safe outcome of a command: it completed, without a warning and without a fatal fault. -/
def RunsClean (o : Host.Outcome State Fault Refusal) : Prop :=
  ∃ t, o = .next t ∧ t.resp = some { code := 0#2, cause := 0#4 }

/-- Source `k` of the fields made uniform (R52). -/
def makeUniform (f : Fields) : Nat → Fields
  | 0 => { f with u0 := true }
  | 1 => { f with u1 := true }
  | _ => { f with u2 := true }

/-- The inputs with `UVALk` replaced (R45). -/
def setUval (i : Inputs) (k : Nat) (x : Container) : Inputs :=
  match k with
  | 0 => { i with uval0 := x }
  | 1 => { i with uval1 := x }
  | _ => { i with uval2 := x }

/-- `CLAMP` is ignored by the command: the catalog says "ignored" (R49, R53 a). -/
def clampIgnored : Instr → Bool
  | .pkMulLoU16 _ | .pkLshlrevB16 _ | .pkLshrrevB16 _ | .pkAshrrevI16 _ => true
  | .pkFmaF32 _ | .pkMulF32 _ | .pkAddF32 _ | .pkMovB32 _ => true
  | .accRead _ | .accWrite _ => true
  | _ => false

/-- The modifier fields of `g` agree with the command's in the bits its rule reads: all of them for `PK_FMA_F32`, bits
0 and 1 for `PK_MUL_F32` and `PK_ADD_F32`, `OPSEL[0]` and `OPSEL_HI[1]` for `PK_MOV_B32`, none for the others; where the
sign flips have no meaning only whether NEG or NEG_HI is set counts (R53 f, R197). -/
def ModifiersAgree (i : Instr) (g : Fields) : Prop :=
  let f := i.fields
  match i with
  | .pkFmaF32 _ => g.opsel = f.opsel ∧ g.opselHi = f.opselHi ∧ g.neg = f.neg ∧ g.negHi = f.negHi
  | .pkMulF32 _ | .pkAddF32 _ => ∀ k < 2,
      g.opsel.getLsbD k = f.opsel.getLsbD k ∧ g.opselHi.getLsbD k = f.opselHi.getLsbD k ∧
      g.neg.getLsbD k = f.neg.getLsbD k ∧ g.negHi.getLsbD k = f.negHi.getLsbD k
  | .pkMovB32 _ =>
      g.opsel.getLsbD 0 = f.opsel.getLsbD 0 ∧ g.opselHi.getLsbD 1 = f.opselHi.getLsbD 1 ∧
      ((g.neg ≠ 0#3 ∨ g.negHi ≠ 0#3) ↔ (f.neg ≠ 0#3 ∨ f.negHi ≠ 0#3))
  | _ => (g.neg ≠ 0#3 ∨ g.negHi ≠ 0#3) ↔ (f.neg ≠ 0#3 ∨ f.negHi ≠ 0#3)

/-- The fields `g` and inputs `q` agree with the command's fields and the inputs `p` in everything R53 does not list as
ignored. -/
def AgreeOnUsed (i : Instr) (g : Fields) (p q : Inputs) : Prop :=
  let f := i.fields
  let sh := catalog i
  (clampIgnored i = false → g.clamp = f.clamp) ∧ g.umod = f.umod ∧ g.vdst = f.vdst ∧
  (∀ k, k < sh.arity → srcUniform g k = srcUniform f k ∧
    (srcUniform f k = false → srcField g k = srcField f k) ∧
    (srcUniform f k = true → (uniformValue q k).extractLsb' 0 32 = (uniformValue p k).extractLsb' 0 32 ∧
      (sh.wide = true → uniformValue q k = uniformValue p k))) ∧
  (sh.accSource = true ∨ sh.accDest = true → q.accOffset = p.accOffset) ∧
  q.exec = p.exec ∧ ModifiersAgree i g

/-- An opcode number that is not in the opcode map (R55). -/
def opUnassigned (op : Nat) : Bool :=
  decide ((0x12 ≤ op ∧ op ≤ 0x1F) ∨ (0x27 ≤ op ∧ op ≤ 0x2F) ∨ (0x34 ≤ op ∧ op ≤ 0x3F) ∨ (0x42 ≤ op ∧ op ≤ 0xFF))

/-- The number of sources of an opcode, from the table of R49. -/
def arityOfOp (op : Nat) : Nat :=
  if op = 0x00 ∨ op = 0x11 ∨ (0x20 ≤ op ∧ op ≤ 0x26) ∨ op = 0x30 then 3
  else if op = 0x40 ∨ op = 0x41 then 1
  else 2

/-- A row the command word addresses lies outside `0..nreg-1` (R56), read off the bits of the word. -/
def wordRowOutOfRange (w : CommandWord) (accOffset nreg : Nat) : Bool :=
  let op := (w.extractLsb' 0 8).toNat
  let x64 := if 0x30 ≤ op ∧ op ≤ 0x33 then 1 else 0
  ((List.range (arityOfOp op)).any fun k => !w.getLsbD (56 + k) &&
    decide (nreg ≤ (w.extractLsb' (32 + 8 * k) 8).toNat + (if op = 0x40 then accOffset else 0) + x64)) ||
  decide (nreg ≤ (w.extractLsb' 24 8).toNat + (if op = 0x41 then accOffset else 0) + x64)

/-- The response R202's checks give to a command word, in their order, from the bits of the word, `ACC_OFFSET` and
`NREG` alone (R203). -/
def responseByChecks (w : CommandWord) (accOffset nreg : Nat) : Response :=
  let op := (w.extractLsb' 0 8).toNat
  if w.extractLsb' 22 2 ≠ 0#2 ∨ w.extractLsb' 59 5 ≠ 0#5 then { code := 2#2, cause := 3#4 }
  else if opUnassigned op then { code := 2#2, cause := 3#4 }
  else if op = 0x40 ∧ w.getLsbD 56 = true then { code := 2#2, cause := 3#4 }
  else if wordRowOutOfRange w accOffset nreg then { code := 2#2, cause := 3#4 }
  else if w.getLsbD 21 = true then { code := 2#2, cause := 2#4 }
  else if w.extractLsb' 15 6 ≠ 0#6 ∧ ¬ (0x30 ≤ op ∧ op ≤ 0x32) then { code := 1#2, cause := 1#4 }
  else { code := 0#2, cause := 0#4 }

/-- Component `i` of a signed dot product as 32 bits: the product of the two `w`-bit fields, saturated or truncated to
`w` bits, sign-extended (R111). -/
def signedComponent (w : Nat) (clamp : Bool) (s0 s1 : Word) (i : Nat) : Word :=
  let x := s0.extractLsb' (w * i) w
  let y := s1.extractLsb' (w * i) w
  if clamp then BitVec.ofInt 32 (max (-(2 ^ (w - 1))) (min (2 ^ (w - 1) - 1) (x.toInt * y.toInt)))
  else (x * y).signExtend 32

/-- Component `i` of an unsigned dot product as 32 bits, zero-extended (R112). -/
def unsignedComponent (w : Nat) (clamp : Bool) (s0 s1 : Word) (i : Nat) : Word :=
  let x := s0.extractLsb' (w * i) w
  let y := s1.extractLsb' (w * i) w
  if clamp then BitVec.ofNat 32 (min (2 ^ w - 1) (x.toNat * y.toNat)) else (x * y).setWidth 32

/-- The sum of `n` components and the bias, modulo 2^32 (R111, R112). -/
def sumOfComponents (n : Nat) (component : Nat → Word) (bias : Word) : Word :=
  (List.range n).foldl (fun acc i => acc + component i) 0#32 + bias

/-- The operand of a dual-float result half: the half the selection bit names, its sign bit inverted if the flip bit is
set (R170, R171, R172). -/
def dualOperand (v : Container) (sel flip : Bool) : Word :=
  (if sel then (v >>> 32).setWidth 32 else v.setWidth 32) ^^^ (if flip then 0x80000000#32 else 0#32)

/-- The rational a finite pattern denotes, from the format table of R90: `(-1)^s * (1 + m / 2^f) * 2^(e - bias)`, or
`(-1)^s * (m / 2^f) * 2^(1 - bias)` for a zero or a subnormal. -/
def binaryValue (F : FloatFormat) (p : Nat) : Rat :=
  let e := p / 2 ^ F.fracBits % 2 ^ F.expBits
  let m := p % 2 ^ F.fracBits
  let bias : Int := 2 ^ (F.expBits - 1) - 1
  (if p / 2 ^ (F.expBits + F.fracBits) % 2 = 1 then -1 else 1) *
    (if e = 0 then (m : Rat) / 2 ^ F.fracBits * 2 ^ (1 - bias)
     else (1 + (m : Rat) / 2 ^ F.fracBits) * 2 ^ ((e : Int) - bias))

/-- The pattern is finite: its exponent is not all ones (R90). -/
def IsFinite (F : FloatFormat) (p : Nat) : Prop := p / 2 ^ F.fracBits % 2 ^ F.expBits ≠ 2 ^ F.expBits - 1

/-- The pattern is a NaN: exponent all ones, fraction not zero (R90). -/
def IsNaNPattern (F : FloatFormat) (p : Nat) : Prop :=
  p / 2 ^ F.fracBits % 2 ^ F.expBits = 2 ^ F.expBits - 1 ∧ p % 2 ^ F.fracBits ≠ 0

/-- The sign bit of the pattern (R90). -/
def signBit (F : FloatFormat) (p : Nat) : Bool := decide (p / 2 ^ (F.expBits + F.fracBits) % 2 = 1)

/-- `p` is the pattern `z` rounds to, to nearest, ties to even last fraction bit, infinity of the sign of `z` when the
rounded magnitude exceeds the largest finite value (R92, R96 b). -/
def RoundsTo (F : FloatFormat) (z : Rat) (p : Nat) : Prop :=
  let bound : Rat := (2 - 1 / 2 ^ (F.fracBits + 1)) * 2 ^ (2 ^ (F.expBits - 1) - 1)
  (|z| < bound ∧ IsFinite F p ∧ ∀ q < 2 ^ (1 + F.expBits + F.fracBits), IsFinite F q →
    |binaryValue F p - z| ≤ |binaryValue F q - z| ∧
    (|binaryValue F p - z| = |binaryValue F q - z| → binaryValue F q ≠ binaryValue F p → p % 2 = 0)) ∨
  (bound ≤ |z| ∧ p = (if z < 0 then 2 ^ (F.expBits + F.fracBits) else 0) + (2 ^ F.expBits - 1) * 2 ^ F.fracBits)

/-- Sign and magnitude of a binary16 pattern as one integer: the order of the non-NaN values (R97). -/
def signMagnitude16 (a : Half) : Int := if a.toNat < 2 ^ 15 then (a.toNat : Int) else -((a.toNat : Int) - 2 ^ 15)

end Sys2Proof.Machine
end

