-- ==== Sys2Proof/Certificates/Slice0/Obligations.lean ====
section
/-! DEFINITION. The statements about the model, one for each claim, for the provers. The terms they use are those of
Sys2Proof/Safety.lean. -/

open Sys2Proof Sys2Proof.Machine

/-- Words of 95_test_vectors.md (parts 8, 11, 12), written from the format of R46, decode to the commands they stand for. -/
def Obligations.DecodeReadsSpecWords : Prop :=
  decodeTableWord 64 0x0000010002007102 = some (.pkAddI16 ⟨true, 0, 7, 0, 0, false, 2, 0, 1, 0, false, false, false⟩) ∧
  decodeTableWord 64 0x0002010002007122 = some (.dot4I32I8 ⟨true, 0, 7, 0, 0, false, 2, 0, 1, 2, false, false, false⟩) ∧
  decodeTableWord 64 0x000006060800E231 = some (.pkMulF32 ⟨false, 1, 6, 1, 0, false, 8, 6, 6, 0, false, false, false⟩) ∧
  decodeTableWord 64 0x0100000003007041 = some (.accWrite ⟨false, 0, 7, 0, 0, false, 3, 0, 0, 0, true, false, false⟩) ∧
  decodeTableWord 64 0x0400040305007026 = some (.dot2F32F16 ⟨false, 0, 7, 0, 0, false, 5, 3, 4, 0, false, false, true⟩)

/-- Every well-formed command is read back from its command word: no bit of the format (R46) is dropped. -/
def Obligations.DecodeOfEncodeIsTheCommand : Prop :=
  ∀ i : Instr, i.wellFormed = true → decode (encode i) = .ok i

/-- Each word of the catalog has one meaning: it is the word of the command it decodes to (R46, R58). -/
def Obligations.EncodeOfDecodeIsTheWord : Prop :=
  ∀ (w : CommandWord) (i : Instr), decode w = .ok i → encode i = w ∧ i.wellFormed = true

/-- The step is `exec` of the decoded command, at the state that has sampled the inputs presented with the word (R45). That the sequence and the inputs are fields of the state is the model's choice (log 5). -/
def Obligations.StepRunsTheDecodedCommand : Prop :=
  ∀ (s : State) (c : Command) (rest : List CallerInput) (i : Instr),
    s.halted = false → s.pending = .command c :: rest → decode c.word = .ok i →
    step s = exec i { s with inputs := c.inputs, pending := rest }

/-- R54 and R55: reserved bits and unassigned opcodes are illegal commands, with the effect of a fatal fault (R201). -/
def Obligations.IllegalWordIsFatal : Prop :=
  ∀ (s : State) (c : Command) (rest : List CallerInput),
    s.halted = false → s.pending = .command c :: rest →
    (c.word.extractLsb' 22 2 ≠ 0#2 ∨ c.word.extractLsb' 59 5 ≠ 0#5 ∨
      opUnassigned (c.word.extractLsb' 0 8).toNat = true) →
    ∃ t, step s = .next t ∧ Aborted 3#4 { s with inputs := c.inputs, pending := rest } t

/-- R202, R58, R203: decode and checks are total, ordered, and depend on the word, `ACC_OFFSET` and `NREG` only. -/
def Obligations.OutcomeFollowsTheCheckOrder : Prop :=
  ∀ (s : State) (c : Command) (rest : List CallerInput),
    s.halted = false → s.pending = .command c :: rest →
    ∃ t, step s = .next t ∧
      t.resp = some (responseByChecks c.word c.inputs.accOffset.toNat s.params.nreg) ∧
      (if (responseByChecks c.word c.inputs.accOffset.toNat s.params.nreg).code = 2#2 then
        Aborted (responseByChecks c.word c.inputs.accOffset.toNat s.params.nreg).cause
          { s with inputs := c.inputs, pending := rest } t
       else t.position = s.position + 1 ∧ t.halted = false)

/-- R18 for the halted block; R220 and R221 for what the reset that ends it leaves. That it clears the response is the model's choice (log 8). How commands presented before a later reset are passed over is log 6: no clause rests on it. -/
def Obligations.HaltedBlockAcceptsNoCommand : Prop :=
  (∀ s : State, s.halted = s.pstat.getLsbD 1) ∧
  (∀ (i : Instr) (s : State), s.halted = true → exec i s = .fault .halted) ∧
  (∀ s : State, s.halted = true → (∀ a ∈ s.pending, ∃ c, a = .command c) → step s = .fault .halted) ∧
  (∀ s t : State, s.halted = true → step s = .next t → t.halted = false →
    ∃ rest, t = { s with pstat := 0#32, position := 0, resp := none, pending := rest })

/-- What reset leaves (R22, R221), and that the invariant holds there. `NREG = 512` is the model's choice (log 2). -/
def Obligations.ResetStateMeetsTheInvariant : Prop :=
  State.reset.Inv ∧ State.reset.pstat = 0#32 ∧ State.reset.halted = false ∧ State.reset.position = 0 ∧
  (∀ r l, State.reset.vr.written r l = false)

/-- The reset event (R220, R221). The cleared response is log 8, the commands passed over while halted are log 6. -/
def Obligations.ResetClearsStatusAndKeepsRows : Prop :=
  (∀ (s : State) (rest : List CallerInput), s.pending = .reset :: rest →
    step s = .next { s with pstat := 0#32, position := 0, resp := none, pending := rest }) ∧
  (∀ (s : State) (cs : List Command) (rest : List CallerInput), s.halted = true →
    s.pending = cs.map .command ++ .reset :: rest →
    step s = .next { s with pstat := 0#32, position := 0, resp := none, pending := rest })

/-- R56, with the effect R201 gives a fatal fault. -/
def Obligations.IllegalOperandsAreFatal : Prop :=
  ∀ (i : Instr) (s : State), s.halted = false →
    ((∃ k, k < (catalog i).arity ∧ srcUniform i.fields k = false ∧
        s.params.nreg ≤ sourceRow (catalog i) i.fields s k + extraRows (catalog i)) ∨
      s.params.nreg ≤ destRow (catalog i) i.fields s + extraRows (catalog i) ∨
      (∃ f, i = .accRead f ∧ f.u0 = true)) →
    ∃ t, exec i s = .next t ∧ t.halted = true ∧ Aborted 3#4 s t

/-- R198 and, for the dual-float commands, R177. The converse: a command without UMOD never responds with cause 2. -/
def Obligations.MicroModifierModeIsFatal : Prop :=
  (∀ (i : Instr) (s : State), s.halted = false → OperandsLegal i s → i.fields.umod = true →
    ∃ t, exec i s = .next t ∧ t.halted = true ∧ Aborted 2#4 s t) ∧
  (∀ (i : Instr) (s t : State), exec i s = .next t → t.resp = some { code := 2#2, cause := 2#4 } →
    OperandsLegal i s ∧ i.fields.umod = true)

/-- R197 (exact condition) and R200 (effect). That WARN then stays until reset is `StatusBitsAreSticky`. -/
def Obligations.WarningExecutesAsWithoutModifier : Prop :=
  (∀ (i : Instr) (s : State), Executes i s → (i.fields.neg ≠ 0#3 ∨ i.fields.negHi ≠ 0#3) →
    (∀ f, i ≠ .pkFmaF32 f ∧ i ≠ .pkMulF32 f ∧ i ≠ .pkAddF32 f) →
    ∃ t t', exec i s = .next t ∧
      exec (i.withFields { i.fields with neg := 0#3, negHi := 0#3 }) s = .next t' ∧
      t.vr = t'.vr ∧ t.position = s.position + 1 ∧ pstatWarn t.pstat = true ∧
      (pstatFatal s.pstat = false → pstatCause t.pstat = 1#4) ∧ t.halted = false ∧
      t.resp = some { code := 1#2, cause := 1#4 } ∧
      t'.resp = some { code := 0#2, cause := 0#4 } ∧ t'.pstat = s.pstat) ∧
  (∀ (i : Instr) (s t : State), exec i s = .next t → t.resp = some { code := 1#2, cause := 1#4 } →
    Executes i s ∧ (i.fields.neg ≠ 0#3 ∨ i.fields.negHi ≠ 0#3) ∧
    (∀ f, i ≠ .pkFmaF32 f ∧ i ≠ .pkMulF32 f ∧ i ≠ .pkAddF32 f))

/-- The access column of R17: sticky, cleared only by reset. -/
def Obligations.StatusBitsAreSticky : Prop :=
  ∀ s t : State, step s = .next t →
    ((pstatWarn s.pstat = true → pstatWarn t.pstat = true) ∧
      (pstatFatal s.pstat = true → pstatFatal t.pstat = true)) ∨
    (t.pstat = 0#32 ∧ ∃ rest, s.toTake = .reset :: rest)

/-- R21, in every state. -/
def Obligations.InactiveLanesAreUntouchedAndUnseen : Prop :=
  (∀ (i : Instr) (s t : State), exec i s = .next t →
    ∀ r l, ¬ s.laneActive l → t.vr.read r l = s.vr.read r l) ∧
  (∀ (i : Instr) (s s' t : State), s' = { s with vr := s'.vr } →
    (∀ r l, s.laneActive l → s'.vr.read r l = s.vr.read r l) → exec i s = .next t →
    ∃ t', exec i s' = .next t' ∧ t'.resp = t.resp ∧ t'.pstat = t.pstat ∧ t'.position = t.position ∧
      ∀ r l, s.laneActive l → t'.vr.read r l = t.vr.read r l)

/-- R129: no lane reads another. -/
def Obligations.LaneResultDependsOnItsLaneOnly : Prop :=
  ∀ (i : Instr) (s s' t t' : State) (l : Lane), SameInLane l s s' →
    exec i s = .next t → exec i s' = .next t' → SameInLane l t t'

/-- R132. -/
def Obligations.EmptyMaskChangesNoRow : Prop :=
  ∀ (i : Instr) (s t : State), s.inputs.exec = 0#64 → exec i s = .next t →
    t.vr = s.vr ∧
    ∀ m : Mask, ∃ t', exec i { s with inputs := { s.inputs with exec := m } } = .next t' ∧
      t'.pstat = t.pstat ∧ t'.resp = t.resp ∧ t'.position = t.position

/-- R128, for every command and every source it may be applied to. -/
def Obligations.UniformOperandIsABroadcast : Prop :=
  ∀ (i : Instr) (s t : State) (k : Nat) (x : Container),
    k < (catalog i).arity → srcUniform i.fields k = false → (catalog i).accSource = false →
    sourceRow (catalog i) i.fields s k + extraRows (catalog i) < s.params.nreg →
    (∀ l, s.laneActive l →
      s.vr.read (sourceRow (catalog i) i.fields s k) l = x.extractLsb' 0 32 ∧
      ((catalog i).wide = true → s.vr.read (sourceRow (catalog i) i.fields s k + 1) l = x.extractLsb' 32 32)) →
    exec i s = .next t →
    ∃ t', exec (i.withFields (makeUniform i.fields k)) { s with inputs := setUval s.inputs k x } = .next t' ∧
      t'.vr = t.vr ∧ t'.pstat = t.pstat ∧ t'.resp = t.resp ∧ t'.position = t.position

/-- R53 (a) to (f): fields and inputs that agree in all it does not list give the same outcome. -/
def Obligations.IgnoredFieldsHaveNoEffect : Prop :=
  ∀ (i : Instr) (g : Fields) (s t : State) (q : Inputs), AgreeOnUsed i g s.inputs q → exec i s = .next t →
    exec (i.withFields g) { s with inputs := q } = .next { t with inputs := q }

/-- R130: the order of lanes is free. -/
def Obligations.LaneOrderIsUnobservable : Prop :=
  ∀ (f : RegFile) (r : Nat) (m : Mask) (lanes : List Lane), f.WF → lanes.Perm (activeLanes m) →
    (∀ stage : Lane → Word, f.commitRow r lanes stage = f.commitRow r (activeLanes m) stage) ∧
    (∀ stage : Lane → Container, f.commitPair r lanes stage = f.commitPair r (activeLanes m) stage)

/-- R226: self-copies, and the window is the same storage as the ordinary rows. -/
def Obligations.BridgeOntoItselfChangesNothing : Prop :=
  (∀ (f : Fields) (s : State), Executes (.accRead f) s → f.src0 + s.inputs.accOffset.toNat = f.vdst →
    ∃ t, exec (.accRead f) s = .next t ∧ ∀ r l, t.vr.read r l = s.vr.read r l) ∧
  (∀ (f : Fields) (s : State), Executes (.accWrite f) s → f.u0 = false →
    f.vdst + s.inputs.accOffset.toNat = f.src0 →
    ∃ t, exec (.accWrite f) s = .next t ∧ ∀ r l, t.vr.read r l = s.vr.read r l) ∧
  (∀ (f : Fields) (s : State) (r : Nat) (l : Lane) (v : Word), Executes (.accRead f) s →
    f.src0 + s.inputs.accOffset.toNat = r → s.laneActive l →
    ∃ t, exec (.accRead f) { s with vr := s.vr.write r l v } = .next t ∧ t.vr.read f.vdst l = v) ∧
  (∀ (f g : Fields) (s t : State), Executes (.accWrite f) s → Executes (.pkMaxU16 g) s → g.u0 = false →
    g.u1 = false → g.src0 = f.vdst + s.inputs.accOffset.toNat → g.src1 = g.src0 →
    exec (.accWrite f) s = .next t → ∃ u, exec (.pkMaxU16 g) t = .next u ∧
      ∀ l, s.laneActive l → u.vr.read g.vdst l = t.vr.read (f.vdst + s.inputs.accOffset.toNat) l)

/-- The invariant of R17, R36, R60 and R206, kept by every step from every state that meets it. The canonical form of the rows is the model's choice (log 4). -/
def Obligations.EveryStepKeepsTheInvariant : Prop :=
  ∀ s t : State, s.Inv → step s = .next t → t.Inv ∧ t.params = s.params

/-- R84, with its converse and the signed view. -/
def Obligations.SplitAndJoinAreInverse : Prop :=
  ∀ W ∈ [32, 64], ∀ w ∈ [4, 8, 16, 32], w ∣ W →
    (∀ v : BitVec W, join W (split v w) = v) ∧
    (∀ g : List (BitVec w), g.length = W / w → split (join W g) w = g) ∧
    (∀ v : BitVec w, trunc w v.toInt = v)

/-- R77, over R70 and R71. -/
def Obligations.ClampsSaturateOrTruncate : Prop :=
  ∀ (N : Nat) (z : Int), 1 ≤ N →
    satS N z = max (-(2 ^ (N - 1))) (min (2 ^ (N - 1) - 1) z) ∧
    satU N z = max 0 (min (2 ^ N - 1) z) ∧
    (clampS N z true).toInt = satS N z ∧ ((clampU N z true).toNat : Int) = satU N z ∧
    (-(2 ^ (N - 1)) ≤ z → z ≤ 2 ^ (N - 1) - 1 → ∀ c, (clampS N z c).toInt = z) ∧
    (0 ≤ z → z ≤ 2 ^ N - 1 → ∀ c, ((clampU N z c).toNat : Int) = z) ∧
    ((clampS N z false).toNat : Int) = z % 2 ^ N ∧ ((clampU N z false).toNat : Int) = z % 2 ^ N

/-- R75 by ranges of patterns: the five ranges are disjoint and cover all patterns. -/
def Obligations.UnitClamp32IsTwoOrderedComparisons : Prop :=
  (∀ x : Word, uclamp32 x false = x) ∧
  (∀ x : Word, 0x7F800000 < x.toNat % 2 ^ 31 → uclamp32 x true = x) ∧
  uclamp32 0x80000000#32 true = 0x80000000#32 ∧
  (∀ x : Word, x.toNat ≤ 0x3F800000 → uclamp32 x true = x) ∧
  (∀ x : Word, 0x80000000 < x.toNat → x.toNat ≤ 0xFF800000 → uclamp32 x true = 0x00000000#32) ∧
  (∀ x : Word, 0x3F800000 < x.toNat → x.toNat ≤ 0x7F800000 → uclamp32 x true = 0x3F800000#32)

/-- R76. For a NaN only the composition is stated: the rest is left open (R97). -/
def Obligations.HalfClampIsMinThenMax : Prop :=
  (∀ x : Half, hclamp16 x false = x ∧ hclamp16 x true = fpMax16 (fpMin16 x 0x3C00#16) 0x0000#16) ∧
  (∀ x : Half, 0x3C00 < x.toNat → x.toNat ≤ 0x7C00 → hclamp16 x true = 0x3C00#16) ∧
  (∀ x : Half, 0x8000 < x.toNat → x.toNat ≤ 0xFC00 → hclamp16 x true = 0x0000#16) ∧
  (∀ x : Half, x.toNat ≤ 0x3C00 → hclamp16 x true = x) ∧
  (hclamp16 0x8000#16 true = 0x0000#16 ∨ hclamp16 0x8000#16 true = 0x8000#16)

/-- R97 for the first two clauses. The third, that two zeros of opposite sign give a zero, is the model's deduction (log 12), since R97 leaves that pair open (U2); its sign is free. Of a NaN operand nothing is said (log 13). -/
def Obligations.MinMax16SelectsAnOperand : Prop :=
  ∀ a b : Half, a.toNat % 2 ^ 15 ≤ 0x7C00 → b.toNat % 2 ^ 15 ≤ 0x7C00 →
    (signMagnitude16 a < signMagnitude16 b →
      fpMin16 a b = a ∧ fpMin16 b a = a ∧ fpMax16 a b = b ∧ fpMax16 b a = b) ∧
    (a = b → fpMin16 a b = a ∧ fpMax16 a b = a) ∧
    (a.toNat % 2 ^ 15 = 0 → b.toNat % 2 ^ 15 = 0 →
      (fpMin16 a b).toNat % 2 ^ 15 = 0 ∧ (fpMax16 a b).toNat % 2 ^ 15 = 0)

/-- R98, with the values of the patterns read from R90. -/
def Obligations.Convert16To32IsExact : Prop :=
  ∀ a : Half,
    (IsFinite binary16 a.toNat →
      IsFinite binary32 (fpCvt16to32 a).toNat ∧
      binaryValue binary32 (fpCvt16to32 a).toNat = binaryValue binary16 a.toNat ∧
      signBit binary32 (fpCvt16to32 a).toNat = signBit binary16 a.toNat) ∧
    (a = 0x7C00#16 → fpCvt16to32 a = 0x7F800000#32) ∧ (a = 0xFC00#16 → fpCvt16to32 a = 0xFF800000#32) ∧
    (IsNaNPattern binary16 a.toNat → IsNaNPattern binary32 (fpCvt16to32 a).toNat)

/-- R92 and R96 (a), (b), with the values of the patterns read from R90; R96 (c) and the signs of zeros with it. -/
def Obligations.FiniteArithmeticIsCorrectlyRounded : Prop :=
  (∀ a b c : Half, IsFinite binary16 a.toNat → IsFinite binary16 b.toNat → IsFinite binary16 c.toNat →
    RoundsTo binary16 (binaryValue binary16 a.toNat + binaryValue binary16 b.toNat) (fpAdd16 a b).toNat ∧
    RoundsTo binary16 (binaryValue binary16 a.toNat * binaryValue binary16 b.toNat) (fpMul16 a b).toNat ∧
    RoundsTo binary16 (binaryValue binary16 a.toNat * binaryValue binary16 b.toNat + binaryValue binary16 c.toNat)
      (fpFma16 a b c).toNat ∧
    (binaryValue binary16 a.toNat + binaryValue binary16 b.toNat = 0 →
      fpAdd16 a b = if signBit binary16 a.toNat && signBit binary16 b.toNat then 0x8000#16 else 0x0000#16) ∧
    signBit binary16 (fpMul16 a b).toNat = (signBit binary16 a.toNat != signBit binary16 b.toNat) ∧
    fpAdd16 0x7C00#16 a = 0x7C00#16 ∧ fpAdd16 0xFC00#16 a = 0xFC00#16 ∧
    fpAdd16 a 0x7C00#16 = 0x7C00#16 ∧ fpAdd16 a 0xFC00#16 = 0xFC00#16) ∧
  (∀ a b c : Word, IsFinite binary32 a.toNat → IsFinite binary32 b.toNat → IsFinite binary32 c.toNat →
    RoundsTo binary32 (binaryValue binary32 a.toNat + binaryValue binary32 b.toNat) (fpAdd32 a b).toNat ∧
    RoundsTo binary32 (binaryValue binary32 a.toNat * binaryValue binary32 b.toNat) (fpMul32 a b).toNat ∧
    RoundsTo binary32 (binaryValue binary32 a.toNat * binaryValue binary32 b.toNat + binaryValue binary32 c.toNat)
      (fpFma32 a b c).toNat ∧
    (binaryValue binary32 a.toNat + binaryValue binary32 b.toNat = 0 →
      fpAdd32 a b = if signBit binary32 a.toNat && signBit binary32 b.toNat then 0x80000000#32 else 0x00000000#32) ∧
    signBit binary32 (fpMul32 a b).toNat = (signBit binary32 a.toNat != signBit binary32 b.toNat) ∧
    fpAdd32 0x7F800000#32 a = 0x7F800000#32 ∧ fpAdd32 0xFF800000#32 a = 0xFF800000#32 ∧
    fpAdd32 a 0x7F800000#32 = 0x7F800000#32 ∧ fpAdd32 a 0xFF800000#32 = 0xFF800000#32) ∧
  (∀ a b : Half, (a = 0x7C00#16 ∨ a = 0xFC00#16) → b.toNat % 2 ^ 15 ≠ 0 → ¬ IsNaNPattern binary16 b.toNat →
    (fpMul16 a b = if signBit binary16 a.toNat != signBit binary16 b.toNat then 0xFC00#16 else 0x7C00#16) ∧
    fpMul16 b a = fpMul16 a b) ∧
  (∀ a b : Word, (a = 0x7F800000#32 ∨ a = 0xFF800000#32) → b.toNat % 2 ^ 31 ≠ 0 → ¬ IsNaNPattern binary32 b.toNat →
    (fpMul32 a b = if signBit binary32 a.toNat != signBit binary32 b.toNat then 0xFF800000#32 else 0x7F800000#32) ∧
    fpMul32 b a = fpMul32 a b)

/-- R94. Which NaN is free (log 11): the statement holds for every choice. -/
def Obligations.InvalidOperationsGiveANaN : Prop :=
  (∀ a b c : Half,
    (IsNaNPattern binary16 a.toNat ∨ IsNaNPattern binary16 b.toNat →
      IsNaNPattern binary16 (fpAdd16 a b).toNat ∧ IsNaNPattern binary16 (fpMul16 a b).toNat) ∧
    (IsNaNPattern binary16 a.toNat ∨ IsNaNPattern binary16 b.toNat ∨ IsNaNPattern binary16 c.toNat →
      IsNaNPattern binary16 (fpFma16 a b c).toNat) ∧
    ((a = 0x7C00#16 ∧ b = 0xFC00#16) ∨ (a = 0xFC00#16 ∧ b = 0x7C00#16) →
      IsNaNPattern binary16 (fpAdd16 a b).toNat) ∧
    (a.toNat % 2 ^ 15 = 0 ∧ b.toNat % 2 ^ 15 = 0x7C00 ∨ a.toNat % 2 ^ 15 = 0x7C00 ∧ b.toNat % 2 ^ 15 = 0 →
      IsNaNPattern binary16 (fpMul16 a b).toNat ∧ IsNaNPattern binary16 (fpFma16 a b c).toNat)) ∧
  (∀ a b c : Word,
    (IsNaNPattern binary32 a.toNat ∨ IsNaNPattern binary32 b.toNat →
      IsNaNPattern binary32 (fpAdd32 a b).toNat ∧ IsNaNPattern binary32 (fpMul32 a b).toNat) ∧
    (IsNaNPattern binary32 a.toNat ∨ IsNaNPattern binary32 b.toNat ∨ IsNaNPattern binary32 c.toNat →
      IsNaNPattern binary32 (fpFma32 a b c).toNat) ∧
    ((a = 0x7F800000#32 ∧ b = 0xFF800000#32) ∨ (a = 0xFF800000#32 ∧ b = 0x7F800000#32) →
      IsNaNPattern binary32 (fpAdd32 a b).toNat) ∧
    (a.toNat % 2 ^ 31 = 0 ∧ b.toNat % 2 ^ 31 = 0x7F800000 ∨ a.toNat % 2 ^ 31 = 0x7F800000 ∧ b.toNat % 2 ^ 31 = 0 →
      IsNaNPattern binary32 (fpMul32 a b).toNat ∧ IsNaNPattern binary32 (fpFma32 a b c).toNat)) ∧
  (∀ a : Half, IsNaNPattern binary16 a.toNat → IsNaNPattern binary32 (fpCvt16to32 a).toNat)

/-- R141: multiply-add, signed. Destination `VDST`; the low byte of the word is its opcode. -/
def Obligations.PkMadI16Result : Prop :=
  ∀ (f : Fields) (s : State), Executes (.pkMadI16 f) s →
    (encode (.pkMadI16 f)).extractLsb' 0 8 = 0x00#8 ∧
    ∃ t, exec (.pkMadI16 f) s = .next t ∧ Completed32 (.pkMadI16 f) s t fun l v => ∀ i < 2,
        let x := field16 (source32 (catalog (.pkMadI16 f)) f s 0 l) i
        let y := field16 (source32 (catalog (.pkMadI16 f)) f s 1 l) i
        let z := field16 (source32 (catalog (.pkMadI16 f)) f s 2 l) i
        field16 v i = if f.clamp then BitVec.ofInt 16 (max (-32768) (min 32767 (x.toInt * y.toInt + z.toInt)))
          else x * y + z

/-- R142: multiply-low, unsigned. Destination `VDST`; the low byte of the word is its opcode. -/
def Obligations.PkMulLoU16Result : Prop :=
  ∀ (f : Fields) (s : State), Executes (.pkMulLoU16 f) s →
    (encode (.pkMulLoU16 f)).extractLsb' 0 8 = 0x01#8 ∧
    ∃ t, exec (.pkMulLoU16 f) s = .next t ∧ Completed32 (.pkMulLoU16 f) s t fun l v => ∀ i < 2,
        let x := field16 (source32 (catalog (.pkMulLoU16 f)) f s 0 l) i
        let y := field16 (source32 (catalog (.pkMulLoU16 f)) f s 1 l) i
        field16 v i = x * y

/-- R143: add, signed. Destination `VDST`; the low byte of the word is its opcode. -/
def Obligations.PkAddI16Result : Prop :=
  ∀ (f : Fields) (s : State), Executes (.pkAddI16 f) s →
    (encode (.pkAddI16 f)).extractLsb' 0 8 = 0x02#8 ∧
    ∃ t, exec (.pkAddI16 f) s = .next t ∧ Completed32 (.pkAddI16 f) s t fun l v => ∀ i < 2,
        let x := field16 (source32 (catalog (.pkAddI16 f)) f s 0 l) i
        let y := field16 (source32 (catalog (.pkAddI16 f)) f s 1 l) i
        field16 v i = if f.clamp then BitVec.ofInt 16 (max (-32768) (min 32767 (x.toInt + y.toInt)))
          else x + y

/-- R144: subtract, signed. Destination `VDST`; the low byte of the word is its opcode. -/
def Obligations.PkSubI16Result : Prop :=
  ∀ (f : Fields) (s : State), Executes (.pkSubI16 f) s →
    (encode (.pkSubI16 f)).extractLsb' 0 8 = 0x03#8 ∧
    ∃ t, exec (.pkSubI16 f) s = .next t ∧ Completed32 (.pkSubI16 f) s t fun l v => ∀ i < 2,
        let x := field16 (source32 (catalog (.pkSubI16 f)) f s 0 l) i
        let y := field16 (source32 (catalog (.pkSubI16 f)) f s 1 l) i
        field16 v i = if f.clamp then BitVec.ofInt 16 (max (-32768) (min 32767 (x.toInt - y.toInt)))
          else x - y

/-- R145: add, unsigned. Destination `VDST`; the low byte of the word is its opcode. -/
def Obligations.PkAddU16Result : Prop :=
  ∀ (f : Fields) (s : State), Executes (.pkAddU16 f) s →
    (encode (.pkAddU16 f)).extractLsb' 0 8 = 0x04#8 ∧
    ∃ t, exec (.pkAddU16 f) s = .next t ∧ Completed32 (.pkAddU16 f) s t fun l v => ∀ i < 2,
        let x := field16 (source32 (catalog (.pkAddU16 f)) f s 0 l) i
        let y := field16 (source32 (catalog (.pkAddU16 f)) f s 1 l) i
        field16 v i = if f.clamp then BitVec.ofNat 16 (min 65535 (x.toNat + y.toNat)) else x + y

/-- R146: subtract, unsigned. Destination `VDST`; the low byte of the word is its opcode. -/
def Obligations.PkSubU16Result : Prop :=
  ∀ (f : Fields) (s : State), Executes (.pkSubU16 f) s →
    (encode (.pkSubU16 f)).extractLsb' 0 8 = 0x05#8 ∧
    ∃ t, exec (.pkSubU16 f) s = .next t ∧ Completed32 (.pkSubU16 f) s t fun l v => ∀ i < 2,
        let x := field16 (source32 (catalog (.pkSubU16 f)) f s 0 l) i
        let y := field16 (source32 (catalog (.pkSubU16 f)) f s 1 l) i
        field16 v i = if f.clamp then (if x.toNat < y.toNat then 0#16 else x - y) else x - y

/-- R147: minimum, signed. Destination `VDST`; the low byte of the word is its opcode. -/
def Obligations.PkMinI16Result : Prop :=
  ∀ (f : Fields) (s : State), Executes (.pkMinI16 f) s →
    (encode (.pkMinI16 f)).extractLsb' 0 8 = 0x06#8 ∧
    ∃ t, exec (.pkMinI16 f) s = .next t ∧ Completed32 (.pkMinI16 f) s t fun l v => ∀ i < 2,
        let x := field16 (source32 (catalog (.pkMinI16 f)) f s 0 l) i
        let y := field16 (source32 (catalog (.pkMinI16 f)) f s 1 l) i
        field16 v i = if y.slt x then y else x

/-- R148: maximum, signed. Destination `VDST`; the low byte of the word is its opcode. -/
def Obligations.PkMaxI16Result : Prop :=
  ∀ (f : Fields) (s : State), Executes (.pkMaxI16 f) s →
    (encode (.pkMaxI16 f)).extractLsb' 0 8 = 0x07#8 ∧
    ∃ t, exec (.pkMaxI16 f) s = .next t ∧ Completed32 (.pkMaxI16 f) s t fun l v => ∀ i < 2,
        let x := field16 (source32 (catalog (.pkMaxI16 f)) f s 0 l) i
        let y := field16 (source32 (catalog (.pkMaxI16 f)) f s 1 l) i
        field16 v i = if x.slt y then y else x

/-- R149: minimum, unsigned. Destination `VDST`; the low byte of the word is its opcode. -/
def Obligations.PkMinU16Result : Prop :=
  ∀ (f : Fields) (s : State), Executes (.pkMinU16 f) s →
    (encode (.pkMinU16 f)).extractLsb' 0 8 = 0x08#8 ∧
    ∃ t, exec (.pkMinU16 f) s = .next t ∧ Completed32 (.pkMinU16 f) s t fun l v => ∀ i < 2,
        let x := field16 (source32 (catalog (.pkMinU16 f)) f s 0 l) i
        let y := field16 (source32 (catalog (.pkMinU16 f)) f s 1 l) i
        field16 v i = if y.ult x then y else x

/-- R150: maximum, unsigned. Destination `VDST`; the low byte of the word is its opcode. -/
def Obligations.PkMaxU16Result : Prop :=
  ∀ (f : Fields) (s : State), Executes (.pkMaxU16 f) s →
    (encode (.pkMaxU16 f)).extractLsb' 0 8 = 0x09#8 ∧
    ∃ t, exec (.pkMaxU16 f) s = .next t ∧ Completed32 (.pkMaxU16 f) s t fun l v => ∀ i < 2,
        let x := field16 (source32 (catalog (.pkMaxU16 f)) f s 0 l) i
        let y := field16 (source32 (catalog (.pkMaxU16 f)) f s 1 l) i
        field16 v i = if x.ult y then y else x

/-- R151: shift left logical. Destination `VDST`; the low byte of the word is its opcode. -/
def Obligations.PkLshlrevB16Result : Prop :=
  ∀ (f : Fields) (s : State), Executes (.pkLshlrevB16 f) s →
    (encode (.pkLshlrevB16 f)).extractLsb' 0 8 = 0x0A#8 ∧
    ∃ t, exec (.pkLshlrevB16 f) s = .next t ∧ Completed32 (.pkLshlrevB16 f) s t fun l v => ∀ i < 2,
        let x := field16 (source32 (catalog (.pkLshlrevB16 f)) f s 0 l) i
        let y := field16 (source32 (catalog (.pkLshlrevB16 f)) f s 1 l) i
        field16 v i = y <<< (x &&& 0xF#16).toNat

/-- R152: shift right logical. Destination `VDST`; the low byte of the word is its opcode. -/
def Obligations.PkLshrrevB16Result : Prop :=
  ∀ (f : Fields) (s : State), Executes (.pkLshrrevB16 f) s →
    (encode (.pkLshrrevB16 f)).extractLsb' 0 8 = 0x0B#8 ∧
    ∃ t, exec (.pkLshrrevB16 f) s = .next t ∧ Completed32 (.pkLshrrevB16 f) s t fun l v => ∀ i < 2,
        let x := field16 (source32 (catalog (.pkLshrrevB16 f)) f s 0 l) i
        let y := field16 (source32 (catalog (.pkLshrrevB16 f)) f s 1 l) i
        field16 v i = y >>> (x &&& 0xF#16).toNat

/-- R153: shift right arithmetic. Destination `VDST`; the low byte of the word is its opcode. -/
def Obligations.PkAshrrevI16Result : Prop :=
  ∀ (f : Fields) (s : State), Executes (.pkAshrrevI16 f) s →
    (encode (.pkAshrrevI16 f)).extractLsb' 0 8 = 0x0C#8 ∧
    ∃ t, exec (.pkAshrrevI16 f) s = .next t ∧ Completed32 (.pkAshrrevI16 f) s t fun l v => ∀ i < 2,
        let x := field16 (source32 (catalog (.pkAshrrevI16 f)) f s 0 l) i
        let y := field16 (source32 (catalog (.pkAshrrevI16 f)) f s 1 l) i
        field16 v i = y.sshiftRight (x &&& 0xF#16).toNat

/-- R154: add, half precision. Destination `VDST`; the low byte of the word is its opcode. -/
def Obligations.PkAddF16Result : Prop :=
  ∀ (f : Fields) (s : State), Executes (.pkAddF16 f) s →
    (encode (.pkAddF16 f)).extractLsb' 0 8 = 0x0D#8 ∧
    ∃ t, exec (.pkAddF16 f) s = .next t ∧ Completed32 (.pkAddF16 f) s t fun l v => ∀ i < 2,
        let x := field16 (source32 (catalog (.pkAddF16 f)) f s 0 l) i
        let y := field16 (source32 (catalog (.pkAddF16 f)) f s 1 l) i
        field16 v i = if f.clamp then fpMax16 (fpMin16 (fpAdd16 x y) 0x3C00#16) 0x0000#16 else fpAdd16 x y

/-- R155: multiply, half precision. Destination `VDST`; the low byte of the word is its opcode. -/
def Obligations.PkMulF16Result : Prop :=
  ∀ (f : Fields) (s : State), Executes (.pkMulF16 f) s →
    (encode (.pkMulF16 f)).extractLsb' 0 8 = 0x0E#8 ∧
    ∃ t, exec (.pkMulF16 f) s = .next t ∧ Completed32 (.pkMulF16 f) s t fun l v => ∀ i < 2,
        let x := field16 (source32 (catalog (.pkMulF16 f)) f s 0 l) i
        let y := field16 (source32 (catalog (.pkMulF16 f)) f s 1 l) i
        field16 v i = if f.clamp then fpMax16 (fpMin16 (fpMul16 x y) 0x3C00#16) 0x0000#16 else fpMul16 x y

/-- R156: minimum, half precision. Destination `VDST`; the low byte of the word is its opcode. -/
def Obligations.PkMinF16Result : Prop :=
  ∀ (f : Fields) (s : State), Executes (.pkMinF16 f) s →
    (encode (.pkMinF16 f)).extractLsb' 0 8 = 0x0F#8 ∧
    ∃ t, exec (.pkMinF16 f) s = .next t ∧ Completed32 (.pkMinF16 f) s t fun l v => ∀ i < 2,
        let x := field16 (source32 (catalog (.pkMinF16 f)) f s 0 l) i
        let y := field16 (source32 (catalog (.pkMinF16 f)) f s 1 l) i
        field16 v i = if f.clamp then fpMax16 (fpMin16 (fpMin16 x y) 0x3C00#16) 0x0000#16 else fpMin16 x y

/-- R157: maximum, half precision. Destination `VDST`; the low byte of the word is its opcode. -/
def Obligations.PkMaxF16Result : Prop :=
  ∀ (f : Fields) (s : State), Executes (.pkMaxF16 f) s →
    (encode (.pkMaxF16 f)).extractLsb' 0 8 = 0x10#8 ∧
    ∃ t, exec (.pkMaxF16 f) s = .next t ∧ Completed32 (.pkMaxF16 f) s t fun l v => ∀ i < 2,
        let x := field16 (source32 (catalog (.pkMaxF16 f)) f s 0 l) i
        let y := field16 (source32 (catalog (.pkMaxF16 f)) f s 1 l) i
        field16 v i = if f.clamp then fpMax16 (fpMin16 (fpMax16 x y) 0x3C00#16) 0x0000#16 else fpMax16 x y

/-- R158: fused multiply-add, half precision. Destination `VDST`; the low byte of the word is its opcode. -/
def Obligations.PkFmaF16Result : Prop :=
  ∀ (f : Fields) (s : State), Executes (.pkFmaF16 f) s →
    (encode (.pkFmaF16 f)).extractLsb' 0 8 = 0x11#8 ∧
    ∃ t, exec (.pkFmaF16 f) s = .next t ∧ Completed32 (.pkFmaF16 f) s t fun l v => ∀ i < 2,
        let x := field16 (source32 (catalog (.pkFmaF16 f)) f s 0 l) i
        let y := field16 (source32 (catalog (.pkFmaF16 f)) f s 1 l) i
        let z := field16 (source32 (catalog (.pkFmaF16 f)) f s 2 l) i
        field16 v i = if f.clamp then fpMax16 (fpMin16 (fpFma16 x y z) 0x3C00#16) 0x0000#16 else fpFma16 x y z

/-- R113: dot product of two signed 16-bit components. -/
def Obligations.Dot2I32I16Result : Prop :=
  ∀ (f : Fields) (s : State), Executes (.dot2I32I16 f) s →
    (encode (.dot2I32I16 f)).extractLsb' 0 8 = 0x20#8 ∧
    ∃ t, exec (.dot2I32I16 f) s = .next t ∧ Completed32 (.dot2I32I16 f) s t fun l v =>
      let s0 := source32 (catalog (.dot2I32I16 f)) f s 0 l
      let s1 := source32 (catalog (.dot2I32I16 f)) f s 1 l
      v = sumOfComponents 2 (signedComponent 16 f.clamp s0 s1) (source32 (catalog (.dot2I32I16 f)) f s 2 l)

/-- R114: dot product of two unsigned 16-bit components. -/
def Obligations.Dot2U32U16Result : Prop :=
  ∀ (f : Fields) (s : State), Executes (.dot2U32U16 f) s →
    (encode (.dot2U32U16 f)).extractLsb' 0 8 = 0x21#8 ∧
    ∃ t, exec (.dot2U32U16 f) s = .next t ∧ Completed32 (.dot2U32U16 f) s t fun l v =>
      let s0 := source32 (catalog (.dot2U32U16 f)) f s 0 l
      let s1 := source32 (catalog (.dot2U32U16 f)) f s 1 l
      v = sumOfComponents 2 (unsignedComponent 16 f.clamp s0 s1) (source32 (catalog (.dot2U32U16 f)) f s 2 l)

/-- R115: dot product of four signed 8-bit components. -/
def Obligations.Dot4I32I8Result : Prop :=
  ∀ (f : Fields) (s : State), Executes (.dot4I32I8 f) s →
    (encode (.dot4I32I8 f)).extractLsb' 0 8 = 0x22#8 ∧
    ∃ t, exec (.dot4I32I8 f) s = .next t ∧ Completed32 (.dot4I32I8 f) s t fun l v =>
      let s0 := source32 (catalog (.dot4I32I8 f)) f s 0 l
      let s1 := source32 (catalog (.dot4I32I8 f)) f s 1 l
      v = sumOfComponents 4 (signedComponent 8 f.clamp s0 s1) (source32 (catalog (.dot4I32I8 f)) f s 2 l)

/-- R116: dot product of four unsigned 8-bit components. -/
def Obligations.Dot4U32U8Result : Prop :=
  ∀ (f : Fields) (s : State), Executes (.dot4U32U8 f) s →
    (encode (.dot4U32U8 f)).extractLsb' 0 8 = 0x23#8 ∧
    ∃ t, exec (.dot4U32U8 f) s = .next t ∧ Completed32 (.dot4U32U8 f) s t fun l v =>
      let s0 := source32 (catalog (.dot4U32U8 f)) f s 0 l
      let s1 := source32 (catalog (.dot4U32U8 f)) f s 1 l
      v = sumOfComponents 4 (unsignedComponent 8 f.clamp s0 s1) (source32 (catalog (.dot4U32U8 f)) f s 2 l)

/-- R117: dot product of eight signed 4-bit components. -/
def Obligations.Dot8I32I4Result : Prop :=
  ∀ (f : Fields) (s : State), Executes (.dot8I32I4 f) s →
    (encode (.dot8I32I4 f)).extractLsb' 0 8 = 0x24#8 ∧
    ∃ t, exec (.dot8I32I4 f) s = .next t ∧ Completed32 (.dot8I32I4 f) s t fun l v =>
      let s0 := source32 (catalog (.dot8I32I4 f)) f s 0 l
      let s1 := source32 (catalog (.dot8I32I4 f)) f s 1 l
      v = sumOfComponents 8 (signedComponent 4 f.clamp s0 s1) (source32 (catalog (.dot8I32I4 f)) f s 2 l)

/-- R118: dot product of eight unsigned 4-bit components. -/
def Obligations.Dot8U32U4Result : Prop :=
  ∀ (f : Fields) (s : State), Executes (.dot8U32U4 f) s →
    (encode (.dot8U32U4 f)).extractLsb' 0 8 = 0x25#8 ∧
    ∃ t, exec (.dot8U32U4 f) s = .next t ∧ Completed32 (.dot8U32U4 f) s t fun l v =>
      let s0 := source32 (catalog (.dot8U32U4 f)) f s 0 l
      let s1 := source32 (catalog (.dot8U32U4 f)) f s 1 l
      v = sumOfComponents 8 (unsignedComponent 4 f.clamp s0 s1) (source32 (catalog (.dot8U32U4 f)) f s 2 l)

/-- R119: the floating variant. -/
def Obligations.Dot2F32F16Result : Prop :=
  ∀ (f : Fields) (s : State), Executes (.dot2F32F16 f) s →
    (encode (.dot2F32F16 f)).extractLsb' 0 8 = 0x26#8 ∧
    ∃ t, exec (.dot2F32F16 f) s = .next t ∧ Completed32 (.dot2F32F16 f) s t fun l v =>
      let component := fun i : Nat => uclamp32 (fpCvt16to32 (fpMul16
        (field16 (source32 (catalog (.dot2F32F16 f)) f s 0 l) i) (field16 (source32 (catalog (.dot2F32F16 f)) f s 1 l) i))) f.clamp
      v = fpAdd32 (fpAdd32 (fpAdd32 0x00000000#32 (component 0)) (component 1))
        (source32 (catalog (.dot2F32F16 f)) f s 2 l)

/-- R173, for both values of the parameter. -/
def Obligations.PkFmaF32Result : Prop :=
  ∀ (f : Fields) (s : State), Executes (.pkFmaF32 f) s →
    (encode (.pkFmaF32 f)).extractLsb' 0 8 = 0x30#8 ∧
    ∃ t, exec (.pkFmaF32 f) s = .next t ∧ Completed64 (.pkFmaF32 f) s t
      (fun l => fpFma32
        (dualOperand (source64 (catalog (.pkFmaF32 f)) f s 0 l) (f.opsel.getLsbD 0)
          (f.neg.getLsbD 0))
        (dualOperand (source64 (catalog (.pkFmaF32 f)) f s 1 l) (f.opsel.getLsbD 1)
          (if s.params.pkfmaNegBit0Only then f.neg.getLsbD 0 else f.neg.getLsbD 1))
        (dualOperand (source64 (catalog (.pkFmaF32 f)) f s 2 l) (f.opsel.getLsbD 2)
          (if s.params.pkfmaNegBit0Only then f.neg.getLsbD 0 else f.neg.getLsbD 2)))
      (fun l => fpFma32
        (dualOperand (source64 (catalog (.pkFmaF32 f)) f s 0 l) (f.opselHi.getLsbD 0)
          (f.negHi.getLsbD 0))
        (dualOperand (source64 (catalog (.pkFmaF32 f)) f s 1 l) (f.opselHi.getLsbD 1)
          (if s.params.pkfmaNegBit0Only then f.negHi.getLsbD 0 else f.negHi.getLsbD 1))
        (dualOperand (source64 (catalog (.pkFmaF32 f)) f s 2 l) (f.opselHi.getLsbD 2)
          (if s.params.pkfmaNegBit0Only then f.negHi.getLsbD 0 else f.negHi.getLsbD 2)))

/-- R174: dual-float multiply. -/
def Obligations.PkMulF32Result : Prop :=
  ∀ (f : Fields) (s : State), Executes (.pkMulF32 f) s →
    (encode (.pkMulF32 f)).extractLsb' 0 8 = 0x31#8 ∧
    ∃ t, exec (.pkMulF32 f) s = .next t ∧ Completed64 (.pkMulF32 f) s t
      (fun l => fpMul32 (dualOperand (source64 (catalog (.pkMulF32 f)) f s 0 l) (f.opsel.getLsbD 0) (f.neg.getLsbD 0))
        (dualOperand (source64 (catalog (.pkMulF32 f)) f s 1 l) (f.opsel.getLsbD 1) (f.neg.getLsbD 1)))
      (fun l => fpMul32 (dualOperand (source64 (catalog (.pkMulF32 f)) f s 0 l) (f.opselHi.getLsbD 0) (f.negHi.getLsbD 0))
        (dualOperand (source64 (catalog (.pkMulF32 f)) f s 1 l) (f.opselHi.getLsbD 1) (f.negHi.getLsbD 1)))

/-- R175: dual-float add. -/
def Obligations.PkAddF32Result : Prop :=
  ∀ (f : Fields) (s : State), Executes (.pkAddF32 f) s →
    (encode (.pkAddF32 f)).extractLsb' 0 8 = 0x32#8 ∧
    ∃ t, exec (.pkAddF32 f) s = .next t ∧ Completed64 (.pkAddF32 f) s t
      (fun l => fpAdd32 (dualOperand (source64 (catalog (.pkAddF32 f)) f s 0 l) (f.opsel.getLsbD 0) (f.neg.getLsbD 0))
        (dualOperand (source64 (catalog (.pkAddF32 f)) f s 1 l) (f.opsel.getLsbD 1) (f.neg.getLsbD 1)))
      (fun l => fpAdd32 (dualOperand (source64 (catalog (.pkAddF32 f)) f s 0 l) (f.opselHi.getLsbD 0) (f.negHi.getLsbD 0))
        (dualOperand (source64 (catalog (.pkAddF32 f)) f s 1 l) (f.opselHi.getLsbD 1) (f.negHi.getLsbD 1)))

/-- R176. -/
def Obligations.PkMovB32Result : Prop :=
  ∀ (f : Fields) (s : State), Executes (.pkMovB32 f) s →
    (encode (.pkMovB32 f)).extractLsb' 0 8 = 0x33#8 ∧
    ∃ t, exec (.pkMovB32 f) s = .next t ∧ Completed64 (.pkMovB32 f) s t
      (fun l => dualOperand (source64 (catalog (.pkMovB32 f)) f s 0 l) (f.opsel.getLsbD 0) false)
      (fun l => dualOperand (source64 (catalog (.pkMovB32 f)) f s 1 l) (f.opselHi.getLsbD 1) false) ∧
    (f.neg ≠ 0#3 ∨ f.negHi ≠ 0#3 ↔ t.resp = some { code := 1#2, cause := 1#4 })

/-- R186: the copy, and the three illegal operands. -/
def Obligations.AccReadCopiesFromTheWindow : Prop :=
  ∀ (f : Fields) (s : State), s.halted = false →
    (encode (.accRead f)).extractLsb' 0 8 = 0x40#8 ∧
    (f.u0 = false → f.src0 + s.inputs.accOffset.toNat < s.params.nreg → f.vdst < s.params.nreg → f.umod = false →
      ∃ t, exec (.accRead f) s = .next t ∧ destRow (catalog (.accRead f)) f s = f.vdst ∧
        Completed32 (.accRead f) s t fun l v => v = s.vr.read (f.src0 + s.inputs.accOffset.toNat) l) ∧
    (f.u0 = true ∨ s.params.nreg ≤ f.src0 + s.inputs.accOffset.toNat ∨ s.params.nreg ≤ f.vdst →
      ∃ t, exec (.accRead f) s = .next t ∧ Aborted 3#4 s t)

/-- R187: the copy, and the two illegal operands. -/
def Obligations.AccWriteCopiesToTheWindow : Prop :=
  ∀ (f : Fields) (s : State), s.halted = false →
    (encode (.accWrite f)).extractLsb' 0 8 = 0x41#8 ∧
    ((f.u0 = true ∨ f.src0 < s.params.nreg) → f.vdst + s.inputs.accOffset.toNat < s.params.nreg → f.umod = false →
      ∃ t, exec (.accWrite f) s = .next t ∧ destRow (catalog (.accWrite f)) f s = f.vdst + s.inputs.accOffset.toNat ∧
        Completed32 (.accWrite f) s t fun l v =>
          v = if f.u0 then s.inputs.uval0.setWidth 32 else s.vr.read f.src0 l) ∧
    ((f.u0 = false ∧ s.params.nreg ≤ f.src0) ∨ s.params.nreg ≤ f.vdst + s.inputs.accOffset.toNat →
      ∃ t, exec (.accWrite f) s = .next t ∧ Aborted 3#4 s t)
end

