-- ==== Sys2Proof/Laws/Codec.lean ====
section
/-! SUPPORT. The fields of packed results: field `i` of a packed command's result is its operation on field `i` of the
operands (R140), and the halves of a dual-float result are its two results (R170). -/

namespace Sys2Proof.Machine

/-- The two 16-bit fields of a lane value, low field first (R81). -/
theorem split_word_16 (v : Word) : split v 16 = [field16 v 0, field16 v 1] := by
  simp [split, field16, List.range_succ]

/-- Field 0 of a pair of joined fields is the first (R83). -/
theorem field16_zero_join (a b : Half) : field16 (join 32 [a, b]) 0 = a := by
  simp only [field16, join]
  ext k hk
  simp [hk, show k < 32 by omega]

/-- Field 1 of a pair of joined fields is the second (R83). -/
theorem field16_one_join (a b : Half) : field16 (join 32 [a, b]) 1 = b := by
  simp only [field16, join]
  ext k hk
  simp [hk, show 16 + k < 32 by omega, show ¬ 16 + k < 16 by omega]

/-- A lane value is its two fields joined. -/
theorem field16_ext {v w : Word} (h : ∀ i < 2, field16 v i = field16 w i) : v = w := by
  have h0 := h 0 (by decide)
  have h1 := h 1 (by decide)
  apply BitVec.eq_of_getLsbD_eq
  intro k hk
  by_cases hk' : k < 16
  · have := congrArg (fun x : Half => x.getLsbD k) h0
    simpa [field16, hk'] using this
  · have := congrArg (fun x : Half => x.getLsbD (k - 16)) h1
    simpa [field16, show k - 16 < 16 by omega, show 16 + (k - 16) = k by omega] using this

/-- Field `i` of a two-source packed result (R140). -/
theorem field16_perField2 (op : Half → Half → Half) (s0 s1 : Word) {i : Nat} (h : i < 2) :
    field16 (perField2 op s0 s1) i = op (field16 s0 i) (field16 s1 i) := by
  unfold perField2
  rw [split_word_16, split_word_16]
  interval_cases i
  · exact field16_zero_join _ _
  · exact field16_one_join _ _

/-- Field `i` of a three-source packed result (R140). -/
theorem field16_perField3 (op : Half → Half → Half → Half) (s0 s1 s2 : Word) {i : Nat} (h : i < 2) :
    field16 (perField3 op s0 s1 s2) i = op (field16 s0 i) (field16 s1 i) (field16 s2 i) := by
  unfold perField3
  rw [split_word_16, split_word_16, split_word_16]
  interval_cases i
  · exact field16_zero_join _ _
  · exact field16_one_join _ _

/-- The low half of two joined results (R83). -/
theorem low_join (a b : Word) : (join 64 [a, b]).extractLsb' 0 32 = a := by
  apply BitVec.eq_of_getLsbD_eq
  intro k hk
  simp [join, BitVec.getLsbD_extractLsb', hk, show k < 64 by omega, -BitVec.getLsbD_eq_getElem]

/-- The high half of two joined results (R83). -/
theorem high_join (a b : Word) : (join 64 [a, b]).extractLsb' 32 32 = b := by
  apply BitVec.eq_of_getLsbD_eq
  intro k hk
  simp [join, BitVec.getLsbD_extractLsb', hk, show k < 64 by omega, show 32 + k < 64 by omega,
    -BitVec.getLsbD_eq_getElem]

/-- Selecting and flipping a half (R171, R172) in the terms of Safety.lean. -/
theorem halfOperand_eq_dualOperand (v : Container) (sel flip : Bool) : halfOperand v sel flip = dualOperand v sel flip := by
  have hlow : v.extractLsb' 0 32 = v.setWidth 32 := by ext k hk; simp
  have hhigh : v.extractLsb' 32 32 = (v >>> 32).setWidth 32 := by ext k hk; simp
  unfold halfOperand dualOperand flipSign selectHalf
  cases sel <;> cases flip <;> simp only [hlow, hhigh, if_true, Bool.false_eq_true, if_false, BitVec.xor_zero]

end Sys2Proof.Machine
end

