-- ==== Sys2Proof/Laws/Registers.lean ====
section
/-! SUPPORT. Reading after writing and committing register rows, and the canonical form of the register file. -/

namespace Sys2Proof.Machine

theorem RegCell.key_inj {a b : RegCell} (h : a.key = b.key) : a.row = b.row ∧ a.lane = b.lane := by
  have ha := a.lane.isLt
  have hb := b.lane.isLt
  unfold RegCell.key at h
  exact ⟨by omega, Fin.ext (by omega)⟩

theorem mem_insertCell {c x : RegCell} {cs : List RegCell} (h : x ∈ insertCell c cs) : x = c ∨ x ∈ cs := by
  induction cs with
  | nil => simpa [insertCell] using h
  | cons d ds ih =>
    simp only [insertCell] at h
    split_ifs at h with h1 h2
    · simpa using h
    · rcases List.mem_cons.mp h with h | h <;> simp [h]
    · rcases List.mem_cons.mp h with h | h
      · simp [h]
      · rcases ih h with h | h <;> simp [h]

theorem insertCell_pairwise {c : RegCell} {cs : List RegCell}
    (h : cs.Pairwise fun a b => a.key < b.key) : (insertCell c cs).Pairwise fun a b => a.key < b.key := by
  induction cs with
  | nil => simp [insertCell]
  | cons d ds ih =>
    rw [List.pairwise_cons] at h
    simp only [insertCell]
    split_ifs with h1 h2
    · refine List.pairwise_cons.mpr ⟨?_, List.pairwise_cons.mpr h⟩
      intro x hx
      rcases List.mem_cons.mp hx with rfl | hx
      · exact h1
      · exact h1.trans (h.1 x hx)
    · exact List.pairwise_cons.mpr ⟨fun x hx => h2 ▸ h.1 x hx, h.2⟩
    · refine List.pairwise_cons.mpr ⟨?_, ih h.2⟩
      intro x hx
      rcases mem_insertCell hx with rfl | hx
      · omega
      · exact h.1 x hx

/-- A write keeps the canonical form. -/
theorem RegFile.write_WF {f : RegFile} (h : f.WF) (r : Nat) (l : Lane) (v : Word) : (f.write r l v).WF :=
  insertCell_pairwise h

/-- The rows of a file after a write are the old ones and the row written. -/
theorem RegFile.write_rows {f : RegFile} {r : Nat} {l : Lane} {v : Word} {c : RegCell}
    (h : c ∈ (f.write r l v).cells) : c.row = r ∨ c ∈ f.cells := by
  rcases mem_insertCell h with rfl | h
  · exact .inl rfl
  · exact .inr h

theorem find_insertCell (r : Nat) (l : Lane) (c : RegCell) (cs : List RegCell) :
    (insertCell c cs).find? (fun x => x.row == r && x.lane == l) =
      if c.row = r ∧ c.lane = l then some c else cs.find? (fun x => x.row == r && x.lane == l) := by
  induction cs with
  | nil => by_cases hc : c.row = r ∧ c.lane = l <;> simp [insertCell, hc]
  | cons d ds ih =>
    simp only [insertCell]
    by_cases hc : c.row = r ∧ c.lane = l
    · have hb : (c.row == r && c.lane == l) = true := by simp [hc]
      split_ifs with h1 h2
      · simp [hb]
      · simp [hb]
      · have hd : (d.row == r && d.lane == l) = false := by
          by_contra hd
          simp only [Bool.not_eq_false, Bool.and_eq_true, beq_iff_eq] at hd
          exact h2 (by simp [RegCell.key, hc, hd])
        rw [List.find?_cons, hd, ih, if_pos hc]
    · have hb : (c.row == r && c.lane == l) = false := by
        rw [← Bool.not_eq_true]; simpa using hc
      split_ifs with h1 h2
      · rw [List.find?_cons, hb]
      · have := RegCell.key_inj h2
        have hd : (d.row == r && d.lane == l) = false := by rw [← this.1, ← this.2, hb]
        rw [List.find?_cons, hb, List.find?_cons, hd]
      · rw [List.find?_cons, List.find?_cons, ih, if_neg hc]

/-- Reading after a write, in canonical form or not: the value written in that row lane, the old value elsewhere. -/
theorem RegFile.read_write (f : RegFile) (r r' : Nat) (l l' : Lane) (v : Word) :
    (f.write r l v).read r' l' = if r = r' ∧ l = l' then v else f.read r' l' := by
  unfold RegFile.read RegFile.write
  rw [find_insertCell r' l']
  by_cases hc : r = r' ∧ l = l' <;> simp [hc]

/-- Committing rows keeps the canonical form. -/
theorem RegFile.commitRow_WF {f : RegFile} (h : f.WF) (r : Nat) (ls : List Lane) (g : Lane → Word) :
    (f.commitRow r ls g).WF := by
  unfold RegFile.commitRow
  induction ls generalizing f with
  | nil => exact h
  | cons l ls ih => exact ih (RegFile.write_WF h r l _)

theorem RegFile.commitPair_WF {f : RegFile} (h : f.WF) (r : Nat) (ls : List Lane) (g : Lane → Container) :
    (f.commitPair r ls g).WF := by
  unfold RegFile.commitPair
  induction ls generalizing f with
  | nil => exact h
  | cons l ls ih => exact ih (RegFile.write_WF (RegFile.write_WF h r l _) _ l _)

/-- Reading after a commit of a 32-bit result: the staged value in the listed lanes of the row, the old value
elsewhere. -/
theorem RegFile.read_commitRow (f : RegFile) (r r' : Nat) (ls : List Lane) (l' : Lane) (g : Lane → Word) :
    (f.commitRow r ls g).read r' l' = if r' = r ∧ l' ∈ ls then g l' else f.read r' l' := by
  unfold RegFile.commitRow
  induction ls generalizing f with
  | nil => simp
  | cons l ls ih =>
    rw [List.foldl_cons, ih, RegFile.read_write]
    by_cases h1 : r' = r ∧ l' ∈ ls
    · simp [h1]
    · by_cases h2 : r = r' ∧ l = l'
      · obtain ⟨rfl, rfl⟩ := h2; simp
      · have h3 : ¬ (r' = r ∧ l' ∈ l :: ls) := by
          rintro ⟨rfl, hm⟩
          rcases List.mem_cons.mp hm with rfl | hm
          · exact h2 ⟨rfl, rfl⟩
          · exact h1 ⟨rfl, hm⟩
        rw [if_neg h1, if_neg h2, if_neg h3]

/-- Reading after a commit of a 64-bit result: the halves of the staged value in the two rows, the old value
elsewhere. -/
theorem RegFile.read_commitPair (f : RegFile) (r r' : Nat) (ls : List Lane) (l' : Lane)
    (g : Lane → Container) :
    (f.commitPair r ls g).read r' l' =
      if r' = r ∧ l' ∈ ls then (g l').extractLsb' 0 32
      else if r' = r + 1 ∧ l' ∈ ls then (g l').extractLsb' 32 32
      else f.read r' l' := by
  unfold RegFile.commitPair
  induction ls generalizing f with
  | nil => simp
  | cons l ls ih =>
    rw [List.foldl_cons, ih, RegFile.read_write, RegFile.read_write]
    by_cases hl : l = l'
    · subst hl
      by_cases h1 : r' = r
      · subst h1; simp
      · by_cases h2 : r' = r + 1
        · subst h2; simp
        · have h3 : ¬ r = r' := fun e => h1 e.symm
          have h4 : ¬ r + 1 = r' := fun e => h2 e.symm
          simp [h1, h2, h3, h4]
    · have hm : (l' ∈ l :: ls) ↔ l' ∈ ls := by
        simp [List.mem_cons, show ¬ l' = l from fun e => hl e.symm]
      simp [hm, hl]

/-- The rows of a file after a commit are the old ones and the row committed. -/
theorem RegFile.commitRow_rows {f : RegFile} {r : Nat} {ls : List Lane} {g : Lane → Word} {c : RegCell}
    (h : c ∈ (f.commitRow r ls g).cells) : c.row = r ∨ c ∈ f.cells := by
  unfold RegFile.commitRow at h
  induction ls generalizing f with
  | nil => exact .inr h
  | cons l ls ih =>
    rcases ih h with h | h
    · exact .inl h
    · exact RegFile.write_rows h

theorem RegFile.commitPair_rows {f : RegFile} {r : Nat} {ls : List Lane} {g : Lane → Container} {c : RegCell}
    (h : c ∈ (f.commitPair r ls g).cells) : c.row = r ∨ c.row = r + 1 ∨ c ∈ f.cells := by
  unfold RegFile.commitPair at h
  induction ls generalizing f with
  | nil => exact .inr (.inr h)
  | cons l ls ih =>
    rcases ih h with h | h | h
    · exact .inl h
    · exact .inr (.inl h)
    · rcases RegFile.write_rows h with h | h
      · exact .inr (.inl h)
      · rcases RegFile.write_rows h with h | h
        · exact .inl h
        · exact .inr (.inr h)

/-- The active lanes of a mask are the lanes whose bit is 1. -/
theorem mem_activeLanes (m : Mask) (l : Lane) : l ∈ activeLanes m ↔ m.getLsbD l.val = true := by
  simp [activeLanes]

/-- The reset state's register file is in canonical form. -/
theorem State.reset_vr_WF : State.reset.vr.WF := List.Pairwise.nil

end Sys2Proof.Machine
end

