-- ==== Sys2Proof/Laws/State.lean ====
section
/-! SUPPORT. One lemma per field for each update of the state. -/

namespace Sys2Proof.Machine

@[simp] theorem State.complete_vr (s : State) (w : Bool) (v : RegFile) : (s.complete w v).vr = v := rfl
@[simp] theorem State.complete_pstat (s : State) (w : Bool) (v : RegFile) : (s.complete w v).pstat = if w then pstatAfterWarning s.pstat else s.pstat := rfl
@[simp] theorem State.complete_position (s : State) (w : Bool) (v : RegFile) : (s.complete w v).position = s.position + 1 := rfl
@[simp] theorem State.complete_resp (s : State) (w : Bool) (v : RegFile) : (s.complete w v).resp = some (if w then Response.okWarn else Response.ok) := rfl
@[simp] theorem State.complete_inputs (s : State) (w : Bool) (v : RegFile) : (s.complete w v).inputs = s.inputs := rfl
@[simp] theorem State.complete_pending (s : State) (w : Bool) (v : RegFile) : (s.complete w v).pending = s.pending := rfl
@[simp] theorem State.complete_params (s : State) (w : Bool) (v : RegFile) : (s.complete w v).params = s.params := rfl

@[simp] theorem State.raiseFatal_vr (s : State) (c : Cause) : (s.raiseFatal c).vr = s.vr := rfl
@[simp] theorem State.raiseFatal_pstat (s : State) (c : Cause) : (s.raiseFatal c).pstat = pstatAfterFatal s.pstat c := rfl
@[simp] theorem State.raiseFatal_position (s : State) (c : Cause) : (s.raiseFatal c).position = s.position := rfl
@[simp] theorem State.raiseFatal_resp (s : State) (c : Cause) : (s.raiseFatal c).resp = some (Response.fatal c) := rfl
@[simp] theorem State.raiseFatal_inputs (s : State) (c : Cause) : (s.raiseFatal c).inputs = s.inputs := rfl
@[simp] theorem State.raiseFatal_pending (s : State) (c : Cause) : (s.raiseFatal c).pending = s.pending := rfl
@[simp] theorem State.raiseFatal_params (s : State) (c : Cause) : (s.raiseFatal c).params = s.params := rfl

@[simp] theorem State.applyReset_vr (s : State) : s.applyReset.vr = s.vr := rfl
@[simp] theorem State.applyReset_pstat (s : State) : s.applyReset.pstat = 0#32 := rfl
@[simp] theorem State.applyReset_position (s : State) : s.applyReset.position = 0 := rfl
@[simp] theorem State.applyReset_resp (s : State) : s.applyReset.resp = none := rfl
@[simp] theorem State.applyReset_inputs (s : State) : s.applyReset.inputs = s.inputs := rfl
@[simp] theorem State.applyReset_pending (s : State) : s.applyReset.pending = s.pending := rfl
@[simp] theorem State.applyReset_params (s : State) : s.applyReset.params = s.params := rfl

@[simp] theorem State.accept_vr (s : State) (i : Inputs) (rest : List CallerInput) : (s.accept i rest).vr = s.vr := rfl
@[simp] theorem State.accept_pstat (s : State) (i : Inputs) (rest : List CallerInput) : (s.accept i rest).pstat = s.pstat := rfl
@[simp] theorem State.accept_position (s : State) (i : Inputs) (rest : List CallerInput) : (s.accept i rest).position = s.position := rfl
@[simp] theorem State.accept_resp (s : State) (i : Inputs) (rest : List CallerInput) : (s.accept i rest).resp = s.resp := rfl
@[simp] theorem State.accept_inputs (s : State) (i : Inputs) (rest : List CallerInput) : (s.accept i rest).inputs = i := rfl
@[simp] theorem State.accept_pending (s : State) (i : Inputs) (rest : List CallerInput) : (s.accept i rest).pending = rest := rfl
@[simp] theorem State.accept_params (s : State) (i : Inputs) (rest : List CallerInput) : (s.accept i rest).params = s.params := rfl

@[simp] theorem State.withFetchWord_vr (s : State) (nbits w : Nat) : (s.withFetchWord nbits w).vr = s.vr := rfl
@[simp] theorem State.withFetchWord_pstat (s : State) (nbits w : Nat) : (s.withFetchWord nbits w).pstat = s.pstat := rfl
@[simp] theorem State.withFetchWord_position (s : State) (nbits w : Nat) : (s.withFetchWord nbits w).position = s.position := rfl
@[simp] theorem State.withFetchWord_resp (s : State) (nbits w : Nat) : (s.withFetchWord nbits w).resp = s.resp := rfl
@[simp] theorem State.withFetchWord_inputs (s : State) (nbits w : Nat) : (s.withFetchWord nbits w).inputs = s.inputs := rfl
@[simp] theorem State.withFetchWord_pending (s : State) (nbits w : Nat) : (s.withFetchWord nbits w).pending = .command { word := BitVec.ofNat 64 (w % 2 ^ nbits), inputs := s.inputs } :: s.pending := rfl
@[simp] theorem State.withFetchWord_params (s : State) (nbits w : Nat) : (s.withFetchWord nbits w).params = s.params := rfl

@[simp] theorem State.accept_halted (s : State) (i : Inputs) (rest : List CallerInput) :
    (s.accept i rest).halted = s.halted := rfl
end Sys2Proof.Machine
end

