-- ==== Sys2Proof/Laws/Driver.lean ====
section
/-! SUPPORT. What a command can do, said once: the cases of the driver, and the driver behind every command. -/

namespace Sys2Proof.Machine

/-- All that `runCommand` can answer. -/
theorem runCommand_cases (sh : Shape) (f : Fields) (s : State) (v : RegFile) :
    (s.halted = true ∧ runCommand sh f s v = .fault .halted) ∨
    (s.halted = false ∧ ∃ c, fatalCause sh f s = some c ∧ runCommand sh f s v = .next (s.raiseFatal c)) ∨
    (s.halted = false ∧ fatalCause sh f s = none ∧ runCommand sh f s v = .next (s.complete (warns sh f) v)) := by
  unfold runCommand
  cases hh : s.halted
  · cases hc : fatalCause sh f s
    · exact .inr (.inr ⟨rfl, rfl, by simp⟩)
    · exact .inr (.inl ⟨rfl, _, rfl, by simp⟩)
  · exact .inl ⟨rfl, by simp⟩

/-- A next state of `runCommand` is the aborted command's or the completed command's. -/
theorem runCommand_next {sh : Shape} {f : Fields} {s t : State} {v : RegFile} (h : runCommand sh f s v = .next t) :
    s.halted = false ∧
      ((∃ c, fatalCause sh f s = some c ∧ t = s.raiseFatal c) ∨
        (fatalCause sh f s = none ∧ t = s.complete (warns sh f) v)) := by
  rcases runCommand_cases sh f s v with ⟨_, e⟩ | ⟨hh, c, hc, e⟩ | ⟨hh, hc, e⟩ <;> rw [e] at h
  · cases h
  · cases h; exact ⟨hh, .inl ⟨c, hc, rfl⟩⟩
  · cases h; exact ⟨hh, .inr ⟨hc, rfl⟩⟩

/-- Every command is the driver with its catalog row and a per-lane function of its operands (R126), which may depend
on the command and on the parameters of the instance. -/
theorem exec_drives (i : Instr) :
    ((catalog i).wide = false ∧ ∃ op : Config.Params → Word → Word → Word → Word,
      ∀ s, exec i s = drive32 (catalog i) i.fields s (op s.params)) ∨
    ((catalog i).wide = true ∧ ∃ op : Config.Params → Container → Container → Container → Container,
      ∀ s, exec i s = drive64 (catalog i) i.fields s (op s.params)) := by
  cases i
  case pkMadI16 f => refine .inl ⟨rfl, Function.const _ ?_, fun s => ?_⟩; rotate_left; exact (rfl : execPkMadI16 f s = _)
  case pkMulLoU16 f => refine .inl ⟨rfl, Function.const _ ?_, fun s => ?_⟩; rotate_left; exact (rfl : execPkMulLoU16 f s = _)
  case pkAddI16 f => refine .inl ⟨rfl, Function.const _ ?_, fun s => ?_⟩; rotate_left; exact (rfl : execPkAddI16 f s = _)
  case pkSubI16 f => refine .inl ⟨rfl, Function.const _ ?_, fun s => ?_⟩; rotate_left; exact (rfl : execPkSubI16 f s = _)
  case pkAddU16 f => refine .inl ⟨rfl, Function.const _ ?_, fun s => ?_⟩; rotate_left; exact (rfl : execPkAddU16 f s = _)
  case pkSubU16 f => refine .inl ⟨rfl, Function.const _ ?_, fun s => ?_⟩; rotate_left; exact (rfl : execPkSubU16 f s = _)
  case pkMinI16 f => refine .inl ⟨rfl, Function.const _ ?_, fun s => ?_⟩; rotate_left; exact (rfl : execPkMinI16 f s = _)
  case pkMaxI16 f => refine .inl ⟨rfl, Function.const _ ?_, fun s => ?_⟩; rotate_left; exact (rfl : execPkMaxI16 f s = _)
  case pkMinU16 f => refine .inl ⟨rfl, Function.const _ ?_, fun s => ?_⟩; rotate_left; exact (rfl : execPkMinU16 f s = _)
  case pkMaxU16 f => refine .inl ⟨rfl, Function.const _ ?_, fun s => ?_⟩; rotate_left; exact (rfl : execPkMaxU16 f s = _)
  case pkLshlrevB16 f => refine .inl ⟨rfl, Function.const _ ?_, fun s => ?_⟩; rotate_left; exact (rfl : execPkLshlrevB16 f s = _)
  case pkLshrrevB16 f => refine .inl ⟨rfl, Function.const _ ?_, fun s => ?_⟩; rotate_left; exact (rfl : execPkLshrrevB16 f s = _)
  case pkAshrrevI16 f => refine .inl ⟨rfl, Function.const _ ?_, fun s => ?_⟩; rotate_left; exact (rfl : execPkAshrrevI16 f s = _)
  case pkAddF16 f => refine .inl ⟨rfl, Function.const _ ?_, fun s => ?_⟩; rotate_left; exact (rfl : execPkAddF16 f s = _)
  case pkMulF16 f => refine .inl ⟨rfl, Function.const _ ?_, fun s => ?_⟩; rotate_left; exact (rfl : execPkMulF16 f s = _)
  case pkMinF16 f => refine .inl ⟨rfl, Function.const _ ?_, fun s => ?_⟩; rotate_left; exact (rfl : execPkMinF16 f s = _)
  case pkMaxF16 f => refine .inl ⟨rfl, Function.const _ ?_, fun s => ?_⟩; rotate_left; exact (rfl : execPkMaxF16 f s = _)
  case pkFmaF16 f => refine .inl ⟨rfl, Function.const _ ?_, fun s => ?_⟩; rotate_left; exact (rfl : execPkFmaF16 f s = _)
  case dot2I32I16 f => refine .inl ⟨rfl, Function.const _ ?_, fun s => ?_⟩; rotate_left; exact (rfl : execDot2I32I16 f s = _)
  case dot2U32U16 f => refine .inl ⟨rfl, Function.const _ ?_, fun s => ?_⟩; rotate_left; exact (rfl : execDot2U32U16 f s = _)
  case dot4I32I8 f => refine .inl ⟨rfl, Function.const _ ?_, fun s => ?_⟩; rotate_left; exact (rfl : execDot4I32I8 f s = _)
  case dot4U32U8 f => refine .inl ⟨rfl, Function.const _ ?_, fun s => ?_⟩; rotate_left; exact (rfl : execDot4U32U8 f s = _)
  case dot8I32I4 f => refine .inl ⟨rfl, Function.const _ ?_, fun s => ?_⟩; rotate_left; exact (rfl : execDot8I32I4 f s = _)
  case dot8U32U4 f => refine .inl ⟨rfl, Function.const _ ?_, fun s => ?_⟩; rotate_left; exact (rfl : execDot8U32U4 f s = _)
  case dot2F32F16 f => refine .inl ⟨rfl, Function.const _ ?_, fun s => ?_⟩; rotate_left; exact (rfl : execDot2F32F16 f s = _)
  case pkFmaF32 f => exact .inr ⟨rfl, fun p => dualFloat3 fpFma32 p.pkfmaNegBit0Only f, fun _ => rfl⟩
  case pkMulF32 f => refine .inr ⟨rfl, Function.const _ ?_, fun s => ?_⟩; rotate_left; exact (rfl : execPkMulF32 f s = _)
  case pkAddF32 f => refine .inr ⟨rfl, Function.const _ ?_, fun s => ?_⟩; rotate_left; exact (rfl : execPkAddF32 f s = _)
  case pkMovB32 f => refine .inr ⟨rfl, Function.const _ ?_, fun s => ?_⟩; rotate_left; exact (rfl : execPkMovB32 f s = _)
  case accRead f => refine .inl ⟨rfl, Function.const _ ?_, fun s => ?_⟩; rotate_left; exact (rfl : execAccRead f s = _)
  case accWrite f => refine .inl ⟨rfl, Function.const _ ?_, fun s => ?_⟩; rotate_left; exact (rfl : execAccWrite f s = _)

/-- The causes of a fatal fault are the two fatal ones (R196). -/
theorem fatalCause_fatal {sh : Shape} {f : Fields} {s : State} {c : Cause} (h : fatalCause sh f s = some c) :
    c = .illegalCommand ∨ c = .unsupportedMode := by
  unfold fatalCause at h
  split_ifs at h <;> cases h <;> simp

/-- A command without a fatal cause addresses only rows that exist (R56). -/
theorem fatalCause_none {sh : Shape} {f : Fields} {s : State} (h : fatalCause sh f s = none) :
    (sh.accSource = true → f.u0 = false) ∧ rowOutOfRange sh f s = false ∧ f.umod = false := by
  unfold fatalCause at h
  split_ifs at h with h1 h2 h3
  refine ⟨fun ha => ?_, by simpa using h2, by simpa using h3⟩
  simp only [ha, Bool.true_and, Bool.not_eq_true] at h1
  exact h1

/-- Without a fatal cause the destination rows exist. -/
theorem destRow_lt {sh : Shape} {f : Fields} {s : State} (h : rowOutOfRange sh f s = false) :
    destRow sh f s + extraRows sh < s.params.nreg := by
  simp only [rowOutOfRange, Bool.or_eq_false_iff, destOutOfRange, decide_eq_false_iff_not] at h
  omega

/-- What one step can do: take reset, a caller's write, an illegal word or a command (R5, R220, R54, R55), or stop. -/
theorem step_cases (s : State) :
    (s.toTake = [] ∧ step s = .fault s.endFault) ∨
    (∃ rest, s.toTake = .reset :: rest ∧ step s = .next ({ s with pending := rest } : State).applyReset) ∨
    (∃ r l v rest, s.toTake = .writeLane r l v :: rest ∧
      step s = ({ s with pending := rest } : State).callerWrite r l v) ∨
    (∃ c rest e, s.toTake = .command c :: rest ∧ decode c.word = .error e ∧
      step s = .next ((s.accept c.inputs rest).raiseFatal .illegalCommand)) ∨
    (∃ c rest i, s.toTake = .command c :: rest ∧ decode c.word = .ok i ∧
      step s = exec i (s.accept c.inputs rest)) := by
  unfold step
  cases ht : s.toTake with
  | nil => exact .inl ⟨rfl, rfl⟩
  | cons a rest =>
    cases a with
    | reset => exact .inr (.inl ⟨rest, rfl, rfl⟩)
    | writeLane r l v => exact .inr (.inr (.inl ⟨r, l, v, rest, rfl, rfl⟩))
    | command c =>
      cases hd : decode c.word with
      | error e => exact .inr (.inr (.inr (.inl ⟨c, rest, e, rfl, hd, by simp [hd]⟩)))
      | ok i => exact .inr (.inr (.inr (.inr ⟨c, rest, i, rfl, hd, by simp [hd]⟩)))

/-- A halted block takes no command (R18). -/
theorem toTake_halted {s : State} (h : s.halted = true) : s.toTake = dropCommands s.pending := by
  simp [State.toTake, h]

theorem dropCommands_no_command (cs : List CallerInput) (c : Command) (rest : List CallerInput) :
    dropCommands cs ≠ .command c :: rest := by
  induction cs with
  | nil => simp [dropCommands]
  | cons a cs ih => cases a <;> simp [dropCommands, ih]

/-- A block that takes a command is not halted (R18). -/
theorem not_halted_of_takes_command {s : State} {c : Command} {rest : List CallerInput}
    (h : s.toTake = .command c :: rest) : s.halted = false := by
  cases hh : s.halted
  · rfl
  · rw [toTake_halted hh] at h
    exact absurd h (dropCommands_no_command _ _ _)

end Sys2Proof.Machine
end

