-- ==== Sys2Proof/Laws/Flags.lean ====
section
/-! SUPPORT. The fields of `PSTAT` after a warning and after a fatal fault. -/

namespace Sys2Proof.Machine

@[simp] theorem pstatWarn_afterWarning (p : Word) : pstatWarn (pstatAfterWarning p) = true := by
  unfold pstatAfterWarning
  split <;> simp [pstatWarn, pstatSetWarn, pstatSetCause, Cause.code]

@[simp] theorem pstatFatal_afterWarning (p : Word) : pstatFatal (pstatAfterWarning p) = pstatFatal p := by
  unfold pstatAfterWarning
  split <;> simp [pstatFatal, pstatSetWarn, pstatSetCause, Cause.code]

@[simp] theorem pstatFatal_afterFatal (p : Word) (c : Cause) : pstatFatal (pstatAfterFatal p c) = true := by
  cases c <;> simp [pstatFatal, pstatAfterFatal, pstatSetFatal, pstatSetCause, Cause.code]

@[simp] theorem pstatWarn_afterFatal (p : Word) (c : Cause) : pstatWarn (pstatAfterFatal p c) = pstatWarn p := by
  cases c <;> simp [pstatWarn, pstatAfterFatal, pstatSetFatal, pstatSetCause, Cause.code]

theorem pstatCause_setCause (p : Word) (c : BitVec 4) : pstatCause (pstatSetCause p c) = c := by
  apply BitVec.eq_of_getLsbD_eq
  intro i hi
  interval_cases i <;> simp [pstatCause, pstatSetCause]

@[simp] theorem pstatCause_afterFatal (p : Word) (c : Cause) : pstatCause (pstatAfterFatal p c) = c.code :=
  pstatCause_setCause _ _

theorem pstatCause_afterWarning {p : Word} (h : pstatFatal p = false) :
    pstatCause (pstatAfterWarning p) = Cause.meaninglessModifier.code := by
  simp only [pstatAfterWarning, h]
  exact pstatCause_setCause _ _

/-- A fatal fault leaves WARN and the reserved bits as they were (R201). -/
theorem pstat_mask_afterFatal (p : Word) (c : Cause) : pstatAfterFatal p c &&& 0xFFFFFF0D#32 = p &&& 0xFFFFFF0D#32 := by
  apply BitVec.eq_of_getLsbD_eq
  intro i hi
  cases c <;> interval_cases i <;> simp [pstatAfterFatal, pstatSetCause, pstatSetFatal, Cause.code]

/-- A warning leaves the reserved bits as they were (R200). -/
theorem pstat_mask_afterWarning (p : Word) : pstatAfterWarning p &&& 0xFFFFFF0C#32 = p &&& 0xFFFFFF0C#32 := by
  apply BitVec.eq_of_getLsbD_eq
  intro i hi
  unfold pstatAfterWarning
  split <;> interval_cases i <;> simp [pstatSetCause, pstatSetWarn, Cause.code]

end Sys2Proof.Machine
end

