-- ==== Sys2Proof/Laws/Commands.lean ====
section
/-! SUPPORT. The outcome of a command in the terms of Safety.lean: when it executes, when it is aborted, and what its
completion leaves. -/

namespace Sys2Proof.Machine

/-- Every command is the driver's run over some committed rows. -/
theorem exec_runs (i : Instr) (s : State) : ∃ v, exec i s = runCommand (catalog i) i.fields s v := by
  rcases exec_drives i with ⟨_, op, h⟩ | ⟨_, op, h⟩ <;> rw [h] <;> exact ⟨_, rfl⟩

theorem arity_le_three (i : Instr) : (catalog i).arity ≤ 3 := by cases i <;> simp [catalog, shape32, shape64]

/-- The operands are legal exactly when neither check of R202 steps 3 and 4 fires. -/
theorem operandsLegal_iff (i : Instr) (s : State) : OperandsLegal i s ↔
    ((catalog i).accSource && i.fields.u0) = false ∧ rowOutOfRange (catalog i) i.fields s = false := by
  have h3 := arity_le_three i
  have key : ∀ k, sourceOutOfRange (catalog i) i.fields s k = false ↔
      (k < (catalog i).arity → srcUniform i.fields k = false →
        sourceRow (catalog i) i.fields s k + extraRows (catalog i) < s.params.nreg) := by
    intro k
    unfold sourceOutOfRange
    cases srcUniform i.fields k <;> by_cases hk : k < (catalog i).arity <;> simp [hk]
  unfold OperandsLegal rowOutOfRange
  rw [Bool.or_eq_false_iff, Bool.or_eq_false_iff, Bool.or_eq_false_iff, key, key, key]
  constructor
  · rintro ⟨a, b, c⟩
    refine ⟨?_, ⟨⟨b 0, b 1⟩, b 2⟩, by simpa [destOutOfRange] using c⟩
    cases h : (catalog i).accSource
    · rfl
    · simpa using a h
  · rintro ⟨a, ⟨⟨b0, b1⟩, b2⟩, c⟩
    refine ⟨fun h => by simpa [h] using a, fun k hk => ?_, by simpa [destOutOfRange] using c⟩
    have : k = 0 ∨ k = 1 ∨ k = 2 := by omega
    rcases this with rfl | rfl | rfl
    exacts [b0 hk, b1 hk, b2 hk]

/-- A command executes exactly when the block is not halted and no check fires. -/
theorem executes_iff (i : Instr) (s : State) :
    Executes i s ↔ s.halted = false ∧ fatalCause (catalog i) i.fields s = none := by
  unfold Executes
  rw [operandsLegal_iff]
  constructor
  · rintro ⟨a, ⟨b, c⟩, d⟩
    exact ⟨a, by simp [fatalCause, b, c, d]⟩
  · rintro ⟨a, b⟩
    have := fatalCause_none b
    refine ⟨a, ⟨?_, this.2.1⟩, this.2.2⟩
    cases h : (catalog i).accSource
    · rfl
    · simp [this.1 h]

theorem fatalCause_of_illegal {i : Instr} {s : State} (h : ¬ OperandsLegal i s) :
    fatalCause (catalog i) i.fields s = some .illegalCommand := by
  rw [operandsLegal_iff] at h
  unfold fatalCause
  split_ifs with h1 h2 <;> first | rfl | (exact absurd ⟨by simpa using h1, by simpa using h2⟩ h)

theorem fatalCause_of_umod {i : Instr} {s : State} (h : OperandsLegal i s) (hu : i.fields.umod = true) :
    fatalCause (catalog i) i.fields s = some .unsupportedMode := by
  rw [operandsLegal_iff] at h
  simp [fatalCause, h.1, h.2, hu]

/-- A fatal fault leaves what R201 says. -/
theorem aborted_raiseFatal (s : State) (c : Cause) : Aborted c.code s (s.raiseFatal c) :=
  ⟨rfl, by simp, by simp, pstat_mask_afterFatal _ _, rfl, rfl, rfl, rfl, rfl⟩

theorem exec_of_fatalCause {i : Instr} {s : State} {c : Cause} (h : s.halted = false)
    (hc : fatalCause (catalog i) i.fields s = some c) : exec i s = .next (s.raiseFatal c) := by
  obtain ⟨v, hv⟩ := exec_runs i s
  rw [hv]; simp [runCommand, h, hc]

/-- What a next state of a command is: the aborted command's, or the completed one's over the driver's rows. -/
theorem exec_next {i : Instr} {s t : State} (h : exec i s = .next t) :
    (∃ c, s.halted = false ∧ fatalCause (catalog i) i.fields s = some c ∧ t = s.raiseFatal c) ∨
    (Executes i s ∧ ∃ v, t = s.complete (warns (catalog i) i.fields) v) := by
  obtain ⟨v, hv⟩ := exec_runs i s
  rw [hv] at h
  obtain ⟨hh, ⟨c, hc, rfl⟩ | ⟨hc, rfl⟩⟩ := runCommand_next h
  · exact .inl ⟨c, hh, hc, rfl⟩
  · exact .inr ⟨(executes_iff i s).2 ⟨hh, hc⟩, v, rfl⟩

theorem signFlips_eq_false_iff (i : Instr) :
    (catalog i).signFlips = false ↔ ∀ f, i ≠ .pkFmaF32 f ∧ i ≠ .pkMulF32 f ∧ i ≠ .pkAddF32 f := by
  cases i <;> simp [catalog, shape32, shape64]

/-- The warning's condition is R197's. -/
theorem warns_iff (i : Instr) : warns (catalog i) i.fields = true ↔
    ((i.fields.neg ≠ 0#3 ∨ i.fields.negHi ≠ 0#3) ∧ ∀ f, i ≠ .pkFmaF32 f ∧ i ≠ .pkMulF32 f ∧ i ≠ .pkAddF32 f) := by
  rw [← signFlips_eq_false_iff]
  unfold warns
  simp only [Bool.and_eq_true, Bool.not_eq_true', Bool.or_eq_true, bne_iff_ne]
  tauto

/-- Completion leaves, beside the rows, what `Reported` says. -/
theorem reported_complete (i : Instr) (s : State) (v : RegFile) :
    Reported i s (s.complete (warns (catalog i) i.fields) v) := by
  refine ⟨rfl, ?_, rfl, rfl, rfl⟩
  cases h : warns (catalog i) i.fields
  · simp [Response.ok, Cause.code]
  · simp only [if_true, State.complete_pstat, State.complete_resp]
    exact ⟨by simp, by simp, fun hf => pstatCause_afterWarning hf, pstat_mask_afterWarning _, rfl⟩

/-- The driver on a command that executes: a 32-bit result. -/
theorem drive32_executes {i : Instr} {s : State} (h : Executes i s) (op : Word → Word → Word → Word) :
    drive32 (catalog i) i.fields s op = .next (s.complete (warns (catalog i) i.fields)
      (s.vr.commitRow (destRow (catalog i) i.fields s) (activeLanes s.inputs.exec) fun l =>
        op (source32 (catalog i) i.fields s 0 l) (source32 (catalog i) i.fields s 1 l)
          (source32 (catalog i) i.fields s 2 l))) := by
  rw [executes_iff] at h
  simp [drive32, runCommand, h.1, h.2]

/-- The driver on a command that executes: a 64-bit result. -/
theorem drive64_executes {i : Instr} {s : State} (h : Executes i s)
    (op : Container → Container → Container → Container) :
    drive64 (catalog i) i.fields s op = .next (s.complete (warns (catalog i) i.fields)
      (s.vr.commitPair (destRow (catalog i) i.fields s) (activeLanes s.inputs.exec) fun l =>
        op (source64 (catalog i) i.fields s 0 l) (source64 (catalog i) i.fields s 1 l)
          (source64 (catalog i) i.fields s 2 l))) := by
  rw [executes_iff] at h
  simp [drive64, runCommand, h.1, h.2]

/-- A completed row commit is a completed 32-bit command, with any property the staged values have. -/
theorem completed32_commitRow (i : Instr) (s : State) (stage : Lane → Word) {value : Lane → Word → Prop}
    (h : ∀ l, s.laneActive l → value l (stage l)) :
    Completed32 i s (s.complete (warns (catalog i) i.fields)
      (s.vr.commitRow (destRow (catalog i) i.fields s) (activeLanes s.inputs.exec) stage)) value := by
  refine ⟨fun l hl => ?_, fun r l hr => ?_, reported_complete _ _ _⟩
  · rw [State.complete_vr, RegFile.read_commitRow, if_pos ⟨rfl, (mem_activeLanes _ _).2 hl⟩]
    exact h l hl
  · rw [State.complete_vr, RegFile.read_commitRow, if_neg]
    rintro ⟨rfl, hl⟩
    rcases hr with hr | hr
    · exact hr rfl
    · exact hr ((mem_activeLanes _ _).1 hl)

/-- A completed pair commit is a completed 64-bit command. -/
theorem completed64_commitPair (i : Instr) (s : State) (stage : Lane → Container) {low high : Lane → Word}
    (h : ∀ l, s.laneActive l → (stage l).extractLsb' 0 32 = low l ∧ (stage l).extractLsb' 32 32 = high l) :
    Completed64 i s (s.complete (warns (catalog i) i.fields)
      (s.vr.commitPair (destRow (catalog i) i.fields s) (activeLanes s.inputs.exec) stage)) low high := by
  refine ⟨fun l hl => ?_, fun r l hr => ?_, reported_complete _ _ _⟩
  · have hm := (mem_activeLanes _ _).2 hl
    simp only [State.complete_vr, RegFile.read_commitPair]
    simp [hm, h l hl]
  · simp only [State.complete_vr, RegFile.read_commitPair, mem_activeLanes]
    unfold State.laneActive at hr
    rw [if_neg (by tauto), if_neg (by tauto)]

/-- The checks read the parameters and the inputs only (R203). -/
theorem fatalCause_congr {sh : Shape} {f : Fields} {s s' : State} (h1 : s'.params = s.params)
    (h2 : s'.inputs = s.inputs) : fatalCause sh f s' = fatalCause sh f s := by
  cases s; cases s'; cases h1; cases h2; rfl

/-- A source's value in a lane reads that lane of the rows only (R129). -/
theorem source32_congr {sh : Shape} {f : Fields} {s s' : State} {k : Nat} {l : Lane} (h : s'.inputs = s.inputs)
    (hv : ∀ r, s'.vr.read r l = s.vr.read r l) : source32 sh f s' k l = source32 sh f s k l := by
  simp [source32, sourceRow, h, hv]

theorem source64_congr {sh : Shape} {f : Fields} {s s' : State} {k : Nat} {l : Lane} (h : s'.inputs = s.inputs)
    (hv : ∀ r, s'.vr.read r l = s.vr.read r l) : source64 sh f s' k l = source64 sh f s k l := by
  simp [source64, RegFile.readPair, sourceRow, h, hv]

/-- What a next state of a command is, with the committed rows: aborted, or completed with a 32-bit or a 64-bit result
of a per-lane function that serves every state. -/
theorem exec_next_cases {i : Instr} {s t : State} (h : exec i s = .next t) :
    (s.halted = false ∧ ∃ c, fatalCause (catalog i) i.fields s = some c ∧ t = s.raiseFatal c) ∨
    (s.halted = false ∧ fatalCause (catalog i) i.fields s = none ∧
      ((∃ op : Config.Params → Word → Word → Word → Word,
          (∀ u, exec i u = drive32 (catalog i) i.fields u (op u.params)) ∧
          t = s.complete (warns (catalog i) i.fields)
            (s.vr.commitRow (destRow (catalog i) i.fields s) (activeLanes s.inputs.exec) fun l =>
              op s.params (source32 (catalog i) i.fields s 0 l) (source32 (catalog i) i.fields s 1 l)
                (source32 (catalog i) i.fields s 2 l))) ∨
        (∃ op : Config.Params → Container → Container → Container → Container,
          (∀ u, exec i u = drive64 (catalog i) i.fields u (op u.params)) ∧
          t = s.complete (warns (catalog i) i.fields)
            (s.vr.commitPair (destRow (catalog i) i.fields s) (activeLanes s.inputs.exec) fun l =>
              op s.params (source64 (catalog i) i.fields s 0 l) (source64 (catalog i) i.fields s 1 l)
                (source64 (catalog i) i.fields s 2 l))))) := by
  rcases exec_drives i with ⟨_, op, hop⟩ | ⟨_, op, hop⟩ <;>
    obtain ⟨hh, ⟨c, hc, rfl⟩ | ⟨hc, rfl⟩⟩ := runCommand_next ((hop s).symm.trans h)
  · exact .inl ⟨hh, c, hc, rfl⟩
  · exact .inr ⟨hh, hc, .inl ⟨op, hop, rfl⟩⟩
  · exact .inl ⟨hh, c, hc, rfl⟩
  · exact .inr ⟨hh, hc, .inr ⟨op, hop, rfl⟩⟩

end Sys2Proof.Machine
end

