-- ==== Sys2Proof/Laws/Float.lean ====
section
/-! SUPPORT. What the shared floating-point operations can answer: a NaN of the format, a magnitude up to infinity, a
pattern with the sign and magnitude it was packed from. -/

namespace Sys2Proof.Machine

/-- A free NaN of binary16 is a NaN (R94). -/
@[simp] theorem isNaN_asNaN16 (p : Half) : isNaN binary16 (asNaN16 p).toNat = true := by
  unfold asNaN16
  split
  · assumption
  · decide

/-- A free NaN of binary32 is a NaN (R94). -/
@[simp] theorem isNaN_asNaN32 (p : Word) : isNaN binary32 (asNaN32 p).toNat = true := by
  unfold asNaN32
  split
  · assumption
  · decide

/-- Rounding answers a magnitude up to infinity's, never a NaN's (R96 b). -/
theorem roundQuanta_le (F : FloatFormat) (m k : Nat) : roundQuanta F m k ≤ infPattern F := Nat.min_le_right _ _

/-- Infinity's magnitude lies below the sign bit. -/
theorem infPattern_lt (F : FloatFormat) : infPattern F < signWeight F := by
  unfold infPattern signWeight
  rw [Nat.pow_add]
  exact Nat.mul_lt_mul_of_pos_right (Nat.sub_lt (by positivity) one_pos) (by positivity)

/-- The magnitude of a packed pattern. -/
theorem magnitude_pack (F : FloatFormat) (n : Bool) {m : Nat} (h : m < signWeight F) : magnitude F (pack F n m) = m := by
  cases n <;> simp [magnitude, pack, Nat.mod_eq_of_lt h]

/-- The sign of a packed pattern. -/
theorem isNegative_pack (F : FloatFormat) (n : Bool) {m : Nat} (h : m < signWeight F) :
    isNegative F (pack F n m) = n := by
  cases n
  · simp [isNegative, pack, Nat.mod_eq_of_lt (show m < 2 * signWeight F by omega)]
    omega
  · have : signWeight F + m < 2 * signWeight F := by omega
    simp [isNegative, pack, Nat.mod_eq_of_lt this]

/-- A rounded result is no NaN (R92, R96). -/
theorem isNaN_pack_roundQuanta (F : FloatFormat) (n : Bool) (m k : Nat) :
    isNaN F (pack F n (roundQuanta F m k)) = false := by
  have h := roundQuanta_le F m k
  have := infPattern_lt F
  simp only [isNaN, magnitude_pack F n (show roundQuanta F m k < signWeight F by omega), decide_eq_false_iff_not]
  omega

/-- `FP.add16` where the sum is no NaN. -/
theorem fpAdd16_of_some {a b : Half} {p : Nat} (h : addPattern binary16 a.toNat b.toNat = some p) :
    fpAdd16 a b = BitVec.ofNat 16 p := by simp [fpAdd16, h]

/-- `FP.mul16` where the product is no NaN. -/
theorem fpMul16_of_some {a b : Half} {p : Nat} (h : mulPattern binary16 a.toNat b.toNat = some p) :
    fpMul16 a b = BitVec.ofNat 16 p := by simp [fpMul16, h]

/-- `FP.add32` where the sum is no NaN. -/
theorem fpAdd32_of_some {a b : Word} {p : Nat} (h : addPattern binary32 a.toNat b.toNat = some p) :
    fpAdd32 a b = BitVec.ofNat 32 p := by simp [fpAdd32, h]

/-- `FP.mul32` where the product is no NaN. -/
theorem fpMul32_of_some {a b : Word} {p : Nat} (h : mulPattern binary32 a.toNat b.toNat = some p) :
    fpMul32 a b = BitVec.ofNat 32 p := by simp [fpMul32, h]

end Sys2Proof.Machine
end

