-- ==== Sys2Proof/Laws/PerInstr.lean ====
section
/-! SUPPORT. Facts about each command as syntax, one lemma per constructor. -/

namespace Sys2Proof.Laws.OpcodeByte

/-- The low byte of a command's word is its opcode, and the opcode map gives back its operation (R46, R48). -/
def Statement (i : Instr) : Prop :=
  (encode i).extractLsb' 0 8 = opOf i ∧
  ∃ mk : Fields → Instr, commandOfOp (opOf i) = some mk ∧ mk i.fields = i

theorem low_byte (op : BitVec 8) (f : Fields) : (encodeFields op f).extractLsb' 0 8 = op := by
  unfold encodeFields placed
  apply BitVec.eq_of_getLsbD_eq
  intro k hk
  interval_cases k <;> simp

theorem pkMadI16 (f : Fields) : Statement (.pkMadI16 f) := ⟨low_byte _ _, .pkMadI16, rfl, rfl⟩
theorem pkMulLoU16 (f : Fields) : Statement (.pkMulLoU16 f) := ⟨low_byte _ _, .pkMulLoU16, rfl, rfl⟩
theorem pkAddI16 (f : Fields) : Statement (.pkAddI16 f) := ⟨low_byte _ _, .pkAddI16, rfl, rfl⟩
theorem pkSubI16 (f : Fields) : Statement (.pkSubI16 f) := ⟨low_byte _ _, .pkSubI16, rfl, rfl⟩
theorem pkAddU16 (f : Fields) : Statement (.pkAddU16 f) := ⟨low_byte _ _, .pkAddU16, rfl, rfl⟩
theorem pkSubU16 (f : Fields) : Statement (.pkSubU16 f) := ⟨low_byte _ _, .pkSubU16, rfl, rfl⟩
theorem pkMinI16 (f : Fields) : Statement (.pkMinI16 f) := ⟨low_byte _ _, .pkMinI16, rfl, rfl⟩
theorem pkMaxI16 (f : Fields) : Statement (.pkMaxI16 f) := ⟨low_byte _ _, .pkMaxI16, rfl, rfl⟩
theorem pkMinU16 (f : Fields) : Statement (.pkMinU16 f) := ⟨low_byte _ _, .pkMinU16, rfl, rfl⟩
theorem pkMaxU16 (f : Fields) : Statement (.pkMaxU16 f) := ⟨low_byte _ _, .pkMaxU16, rfl, rfl⟩
theorem pkLshlrevB16 (f : Fields) : Statement (.pkLshlrevB16 f) := ⟨low_byte _ _, .pkLshlrevB16, rfl, rfl⟩
theorem pkLshrrevB16 (f : Fields) : Statement (.pkLshrrevB16 f) := ⟨low_byte _ _, .pkLshrrevB16, rfl, rfl⟩
theorem pkAshrrevI16 (f : Fields) : Statement (.pkAshrrevI16 f) := ⟨low_byte _ _, .pkAshrrevI16, rfl, rfl⟩
theorem pkAddF16 (f : Fields) : Statement (.pkAddF16 f) := ⟨low_byte _ _, .pkAddF16, rfl, rfl⟩
theorem pkMulF16 (f : Fields) : Statement (.pkMulF16 f) := ⟨low_byte _ _, .pkMulF16, rfl, rfl⟩
theorem pkMinF16 (f : Fields) : Statement (.pkMinF16 f) := ⟨low_byte _ _, .pkMinF16, rfl, rfl⟩
theorem pkMaxF16 (f : Fields) : Statement (.pkMaxF16 f) := ⟨low_byte _ _, .pkMaxF16, rfl, rfl⟩
theorem pkFmaF16 (f : Fields) : Statement (.pkFmaF16 f) := ⟨low_byte _ _, .pkFmaF16, rfl, rfl⟩
theorem dot2I32I16 (f : Fields) : Statement (.dot2I32I16 f) := ⟨low_byte _ _, .dot2I32I16, rfl, rfl⟩
theorem dot2U32U16 (f : Fields) : Statement (.dot2U32U16 f) := ⟨low_byte _ _, .dot2U32U16, rfl, rfl⟩
theorem dot4I32I8 (f : Fields) : Statement (.dot4I32I8 f) := ⟨low_byte _ _, .dot4I32I8, rfl, rfl⟩
theorem dot4U32U8 (f : Fields) : Statement (.dot4U32U8 f) := ⟨low_byte _ _, .dot4U32U8, rfl, rfl⟩
theorem dot8I32I4 (f : Fields) : Statement (.dot8I32I4 f) := ⟨low_byte _ _, .dot8I32I4, rfl, rfl⟩
theorem dot8U32U4 (f : Fields) : Statement (.dot8U32U4 f) := ⟨low_byte _ _, .dot8U32U4, rfl, rfl⟩
theorem dot2F32F16 (f : Fields) : Statement (.dot2F32F16 f) := ⟨low_byte _ _, .dot2F32F16, rfl, rfl⟩
theorem pkFmaF32 (f : Fields) : Statement (.pkFmaF32 f) := ⟨low_byte _ _, .pkFmaF32, rfl, rfl⟩
theorem pkMulF32 (f : Fields) : Statement (.pkMulF32 f) := ⟨low_byte _ _, .pkMulF32, rfl, rfl⟩
theorem pkAddF32 (f : Fields) : Statement (.pkAddF32 f) := ⟨low_byte _ _, .pkAddF32, rfl, rfl⟩
theorem pkMovB32 (f : Fields) : Statement (.pkMovB32 f) := ⟨low_byte _ _, .pkMovB32, rfl, rfl⟩
theorem accRead (f : Fields) : Statement (.accRead f) := ⟨low_byte _ _, .accRead, rfl, rfl⟩
theorem accWrite (f : Fields) : Statement (.accWrite f) := ⟨low_byte _ _, .accWrite, rfl, rfl⟩

end Sys2Proof.Laws.OpcodeByte
end

