-- ==== Sys2Proof/Machine/Assembler.lean ====
section
/-! DEFINITION. The assembler (R66, R67) on abstract syntax: what a line of assembler text, once read into its parts,
assembles to. The reading of characters into these parts is not modelled (log 25). -/

namespace Sys2Proof.Machine

/-- An operand of an assembler line (R66). -/
inductive AsmOperand where
  /-- `v<r>`. -/
  | row (r : Nat)
  /-- `v[<r>:<r+1>]`. -/
  | pair (r : Nat)
  /-- `a<n>`. -/
  | acc (n : Nat)
  /-- `#<literal>`. -/
  | uniform (literal : Container)
deriving DecidableEq, Repr

/-- A line of assembler text (R66). A bit list is `[b0, b1]` or `[b0, b1, b2]`; `none` is an absent qualifier. -/
structure AsmLine where
  mnemonic : String
  dst : AsmOperand
  srcs : List AsmOperand
  clamp : Bool := false
  opSel : Option (List Bool) := none
  opSelHi : Option (List Bool) := none
  negLo : Option (List Bool) := none
  negHi : Option (List Bool) := none
  umod : Bool := false
deriving DecidableEq, Repr

/-- The mnemonics (R48). -/
def commandOfMnemonic : List (String × (Fields → Instr)) :=
  [("PK_MAD_I16", .pkMadI16),
   ("PK_MUL_LO_U16", .pkMulLoU16),
   ("PK_ADD_I16", .pkAddI16),
   ("PK_SUB_I16", .pkSubI16),
   ("PK_ADD_U16", .pkAddU16),
   ("PK_SUB_U16", .pkSubU16),
   ("PK_MIN_I16", .pkMinI16),
   ("PK_MAX_I16", .pkMaxI16),
   ("PK_MIN_U16", .pkMinU16),
   ("PK_MAX_U16", .pkMaxU16),
   ("PK_LSHLREV_B16", .pkLshlrevB16),
   ("PK_LSHRREV_B16", .pkLshrrevB16),
   ("PK_ASHRREV_I16", .pkAshrrevI16),
   ("PK_ADD_F16", .pkAddF16),
   ("PK_MUL_F16", .pkMulF16),
   ("PK_MIN_F16", .pkMinF16),
   ("PK_MAX_F16", .pkMaxF16),
   ("PK_FMA_F16", .pkFmaF16),
   ("DOT2_I32_I16", .dot2I32I16),
   ("DOT2_U32_U16", .dot2U32U16),
   ("DOT4_I32_I8", .dot4I32I8),
   ("DOT4_U32_U8", .dot4U32U8),
   ("DOT8_I32_I4", .dot8I32I4),
   ("DOT8_U32_U4", .dot8U32U4),
   ("DOT2_F32_F16", .dot2F32F16),
   ("PK_FMA_F32", .pkFmaF32),
   ("PK_MUL_F32", .pkMulF32),
   ("PK_ADD_F32", .pkAddF32),
   ("PK_MOV_B32", .pkMovB32),
   ("ACC_READ", .accRead),
   ("ACC_WRITE", .accWrite)]

/-- A modifier field from its qualifier: the default where it is absent, and the default's bit 2 where `b2` is
omitted (R66). -/
def asmBits (dflt : BitVec 3) : Option (List Bool) → Option (BitVec 3)
  | none => some dflt
  | some [b0, b1] => some (BitVec.ofBool (dflt.getLsbD 2) ++ BitVec.ofBool b1 ++ BitVec.ofBool b0)
  | some [b0, b1, b2] => some (BitVec.ofBool b2 ++ BitVec.ofBool b1 ++ BitVec.ofBool b0)
  | some _ => none

/-- The field `VDST` from the destination operand: a row, a row pair for a 64-bit result, an accumulator register for
`ACC_WRITE` only (R66). -/
def asmDest (sh : Shape) : AsmOperand → Option Nat
  | .row r => if sh.wide || sh.accDest then none else some r
  | .pair r => if sh.wide then some r else none
  | .acc n => if sh.accDest then some n else none
  | .uniform _ => none

/-- The fields `SRCk`, `Uk` and the input `UVALk` from source operand `k` (R66). -/
def asmSource (sh : Shape) : AsmOperand → Option (Nat × Bool × Container)
  | .row r => if sh.wide || sh.accSource then none else some (r, false, 0#64)
  | .pair r => if sh.wide then some (r, false, 0#64) else none
  | .acc n => if sh.accSource then some (n, false, 0#64) else none
  | .uniform v => some (0, true, v)

/-- The command a line assembles to, with the uniform values that accompany it; none where the line does not follow
the grammar. Fields of sources beyond the arity are 0 (R66). -/
def assemble (a : AsmLine) : Option (Instr × Container × Container × Container) := do
  let mk ← commandOfMnemonic.lookup a.mnemonic
  let opsel ← asmBits 0#3 a.opSel
  let opselHi ← asmBits 7#3 a.opSelHi
  let neg ← asmBits 0#3 a.negLo
  let negHi ← asmBits 0#3 a.negHi
  let f : Fields := ⟨a.clamp, opsel, opselHi, neg, negHi, a.umod, 0, 0, 0, 0, false, false, false⟩
  let sh := catalog (mk f)
  let vdst ← asmDest sh a.dst
  let srcs ← a.srcs.mapM (asmSource sh)
  let absent : Nat × Bool × Container := (0, false, 0#64)
  let s0 := srcs.getD 0 absent
  let s1 := srcs.getD 1 absent
  let s2 := srcs.getD 2 absent
  let i := mk { f with vdst := vdst, src0 := s0.1, src1 := s1.1, src2 := s2.1, u0 := s0.2.1, u1 := s1.2.1,
                       u2 := s2.2.1 }
  if a.srcs.length = sh.arity ∧ i.wellFormed then some (i, s0.2.2, s1.2.2, s2.2.2) else none

end Sys2Proof.Machine
end

