-- ==== Sys2Proof/Tests/Slice0.lean ====
section
/-! SUPPORT. The model's own tests. Expected values are those of 95_test_vectors.md, by the part named in each comment.
Then a witness for every obligation that has hypotheses. -/

namespace Sys2Proof.Tests

open Sys2Proof.Machine

/-- The register rows with the listed lanes written. -/
def rows (l : List (Nat × Lane × Word)) : RegFile :=
  l.foldl (fun f c => f.write c.1 c.2.1 c.2.2) { cells := [] }

/-- A state with one active lane, lane 0, 16 rows, and the listed rows written in that lane. -/
def oneLane (l : List (Nat × Word)) : State :=
  { State.reset with
    vr := rows (l.map fun c => (c.1, 0, c.2))
    inputs := { State.reset.inputs with exec := 0x1#64 }
    params := { nreg := 16, pkfmaNegBit0Only := false } }

/-- Row 0 to 2 hold three 32-bit operands. -/
def abc (a b c : Word) : State := oneLane [(0, a), (1, b), (2, c)]

/-- Row pairs 0 to 1, 2 to 3 and 4 to 5 hold three 64-bit operands. -/
def pairs (a b c : Container) : State :=
  oneLane [(0, a.extractLsb' 0 32), (1, a.extractLsb' 32 32), (2, b.extractLsb' 0 32), (3, b.extractLsb' 32 32),
    (4, c.extractLsb' 0 32), (5, c.extractLsb' 32 32)]

/-- Fields of `v6, v0, v1, v2` with the assembler's defaults (R66). -/
def narrow (clamp : Bool) : Fields := ⟨clamp, 0, 7, 0, 0, false, 6, 0, 1, 2, false, false, false⟩

/-- Fields of `v[6:7], v[0:1], v[2:3], v[4:5]` with the four modifier fields. -/
def dual (opsel opselHi neg negHi : BitVec 3) : Fields :=
  ⟨false, opsel, opselHi, neg, negHi, false, 6, 0, 2, 4, false, false, false⟩

/-- Row 6, lane 0, after one command. -/
def low (i : Instr) (s : State) : Option Word :=
  match exec i s with
  | .next t => some (t.vr.read 6 0)
  | _ => none

/-- Rows 6 and 7, lane 0, after one command. -/
def both (i : Instr) (s : State) : Option Container :=
  match exec i s with
  | .next t => some (t.vr.readPair 6 0)
  | _ => none

/-- `PSTAT`, the response and the position after one step, and whether the register rows are unchanged. -/
def outcome (s : State) : Option (Word × Option Response × Nat × Bool) :=
  match step s with
  | .next t => some (t.pstat, t.resp, t.position, t.vr == s.vr)
  | _ => none

/-- A command word presented in the state `abc`, with an accumulator offset and a number of rows. -/
def presented (w : CommandWord) (accOffset : BitVec 16) (nreg : Nat) : State :=
  { abc 0x00010002#32 0x00030004#32 0#32 with
    params := { nreg := nreg, pkfmaNegBit0Only := false }
    pending := [.command { word := w, inputs := ⟨0x1#64, 0#64, 0#64, 0#64, accOffset⟩ }] }

/-! Well-formedness: an index that an 8-bit row field cannot hold is refused, in each field. -/

theorem test_wellFormed_rows_255 : (Instr.pkMadI16 ⟨true, 7, 7, 7, 7, true, 255, 255, 255, 255, true, true, true⟩).wellFormed = true := by decide
theorem test_illFormed_vdst : (Instr.pkAddI16 ⟨false, 0, 7, 0, 0, false, 256, 0, 1, 0, false, false, false⟩).wellFormed = false := by decide
theorem test_illFormed_src0 : (Instr.accRead ⟨false, 0, 7, 0, 0, false, 0, 256, 1, 0, false, false, false⟩).wellFormed = false := by decide
theorem test_illFormed_src1 : (Instr.pkMovB32 ⟨false, 0, 7, 0, 0, false, 0, 0, 300, 0, false, false, false⟩).wellFormed = false := by decide
theorem test_illFormed_src2 : (Instr.pkFmaF32 ⟨false, 0, 7, 0, 0, false, 0, 0, 1, 256, false, false, false⟩).wellFormed = false := by decide

/-! Decoding (part 11): one command word of each mnemonic, written from the format of R46. -/

theorem test_decode_pkMadI16 : decodeTableWord 64 0x0002010003007000 =
    some (.pkMadI16 ⟨false, 0, 7, 0, 0, false, 3, 0, 1, 2, false, false, false⟩) := by decide
theorem test_decode_pkMulLoU16 : decodeTableWord 64 0x0000010003007001 =
    some (.pkMulLoU16 ⟨false, 0, 7, 0, 0, false, 3, 0, 1, 0, false, false, false⟩) := by decide
theorem test_decode_pkAddI16 : decodeTableWord 64 0x0000010003007002 =
    some (.pkAddI16 ⟨false, 0, 7, 0, 0, false, 3, 0, 1, 0, false, false, false⟩) := by decide
theorem test_decode_pkSubI16 : decodeTableWord 64 0x0000010003007003 =
    some (.pkSubI16 ⟨false, 0, 7, 0, 0, false, 3, 0, 1, 0, false, false, false⟩) := by decide
theorem test_decode_pkAddU16 : decodeTableWord 64 0x0000010003007004 =
    some (.pkAddU16 ⟨false, 0, 7, 0, 0, false, 3, 0, 1, 0, false, false, false⟩) := by decide
theorem test_decode_pkSubU16 : decodeTableWord 64 0x0000010003007005 =
    some (.pkSubU16 ⟨false, 0, 7, 0, 0, false, 3, 0, 1, 0, false, false, false⟩) := by decide
theorem test_decode_pkMinI16 : decodeTableWord 64 0x0000010003007006 =
    some (.pkMinI16 ⟨false, 0, 7, 0, 0, false, 3, 0, 1, 0, false, false, false⟩) := by decide
theorem test_decode_pkMaxI16 : decodeTableWord 64 0x0000010003007007 =
    some (.pkMaxI16 ⟨false, 0, 7, 0, 0, false, 3, 0, 1, 0, false, false, false⟩) := by decide
theorem test_decode_pkMinU16 : decodeTableWord 64 0x0000010003007008 =
    some (.pkMinU16 ⟨false, 0, 7, 0, 0, false, 3, 0, 1, 0, false, false, false⟩) := by decide
theorem test_decode_pkMaxU16 : decodeTableWord 64 0x0000010003007009 =
    some (.pkMaxU16 ⟨false, 0, 7, 0, 0, false, 3, 0, 1, 0, false, false, false⟩) := by decide
theorem test_decode_pkLshlrevB16 : decodeTableWord 64 0x000001000300700A =
    some (.pkLshlrevB16 ⟨false, 0, 7, 0, 0, false, 3, 0, 1, 0, false, false, false⟩) := by decide
theorem test_decode_pkLshrrevB16 : decodeTableWord 64 0x000001000300700B =
    some (.pkLshrrevB16 ⟨false, 0, 7, 0, 0, false, 3, 0, 1, 0, false, false, false⟩) := by decide
theorem test_decode_pkAshrrevI16 : decodeTableWord 64 0x000001000300700C =
    some (.pkAshrrevI16 ⟨false, 0, 7, 0, 0, false, 3, 0, 1, 0, false, false, false⟩) := by decide
theorem test_decode_pkAddF16 : decodeTableWord 64 0x000001000300700D =
    some (.pkAddF16 ⟨false, 0, 7, 0, 0, false, 3, 0, 1, 0, false, false, false⟩) := by decide
theorem test_decode_pkMulF16 : decodeTableWord 64 0x000001000300700E =
    some (.pkMulF16 ⟨false, 0, 7, 0, 0, false, 3, 0, 1, 0, false, false, false⟩) := by decide
theorem test_decode_pkMinF16 : decodeTableWord 64 0x000001000300700F =
    some (.pkMinF16 ⟨false, 0, 7, 0, 0, false, 3, 0, 1, 0, false, false, false⟩) := by decide
theorem test_decode_pkMaxF16 : decodeTableWord 64 0x0000010003007010 =
    some (.pkMaxF16 ⟨false, 0, 7, 0, 0, false, 3, 0, 1, 0, false, false, false⟩) := by decide
theorem test_decode_pkFmaF16 : decodeTableWord 64 0x0002010003007011 =
    some (.pkFmaF16 ⟨false, 0, 7, 0, 0, false, 3, 0, 1, 2, false, false, false⟩) := by decide
theorem test_decode_dot2I32I16 : decodeTableWord 64 0x0002010003007020 =
    some (.dot2I32I16 ⟨false, 0, 7, 0, 0, false, 3, 0, 1, 2, false, false, false⟩) := by decide
theorem test_decode_dot2U32U16 : decodeTableWord 64 0x0002010003007021 =
    some (.dot2U32U16 ⟨false, 0, 7, 0, 0, false, 3, 0, 1, 2, false, false, false⟩) := by decide
theorem test_decode_dot4I32I8 : decodeTableWord 64 0x0002010003007022 =
    some (.dot4I32I8 ⟨false, 0, 7, 0, 0, false, 3, 0, 1, 2, false, false, false⟩) := by decide
theorem test_decode_dot4U32U8 : decodeTableWord 64 0x0002010003007023 =
    some (.dot4U32U8 ⟨false, 0, 7, 0, 0, false, 3, 0, 1, 2, false, false, false⟩) := by decide
theorem test_decode_dot8I32I4 : decodeTableWord 64 0x0002010003007024 =
    some (.dot8I32I4 ⟨false, 0, 7, 0, 0, false, 3, 0, 1, 2, false, false, false⟩) := by decide
theorem test_decode_dot8U32U4 : decodeTableWord 64 0x0002010003007025 =
    some (.dot8U32U4 ⟨false, 0, 7, 0, 0, false, 3, 0, 1, 2, false, false, false⟩) := by decide
theorem test_decode_dot2F32F16 : decodeTableWord 64 0x0002010003007026 =
    some (.dot2F32F16 ⟨false, 0, 7, 0, 0, false, 3, 0, 1, 2, false, false, false⟩) := by decide
theorem test_decode_pkFmaF32 : decodeTableWord 64 0x0006040208007030 =
    some (.pkFmaF32 ⟨false, 0, 7, 0, 0, false, 8, 2, 4, 6, false, false, false⟩) := by decide
theorem test_decode_pkMulF32 : decodeTableWord 64 0x0000040208007031 =
    some (.pkMulF32 ⟨false, 0, 7, 0, 0, false, 8, 2, 4, 0, false, false, false⟩) := by decide
theorem test_decode_pkAddF32 : decodeTableWord 64 0x0000040208007032 =
    some (.pkAddF32 ⟨false, 0, 7, 0, 0, false, 8, 2, 4, 0, false, false, false⟩) := by decide
theorem test_decode_pkMovB32 : decodeTableWord 64 0x0000040208007033 =
    some (.pkMovB32 ⟨false, 0, 7, 0, 0, false, 8, 2, 4, 0, false, false, false⟩) := by decide
theorem test_decode_accRead : decodeTableWord 64 0x0000000103007040 =
    some (.accRead ⟨false, 0, 7, 0, 0, false, 3, 1, 0, 0, false, false, false⟩) := by decide
theorem test_decode_accWrite : decodeTableWord 64 0x0000000103007041 =
    some (.accWrite ⟨false, 0, 7, 0, 0, false, 3, 1, 0, 0, false, false, false⟩) := by decide

/-! Field variations (part 11). -/

theorem test_decode_modifiers : decodeTableWord 64 0x000006060800E231 =
    some (.pkMulF32 ⟨false, 1, 6, 1, 0, false, 8, 6, 6, 0, false, false, false⟩) := by decide
theorem test_decode_umod_negHi : decodeTableWord 64 0x0000000004287033 =
    some (.pkMovB32 ⟨false, 0, 7, 0, 2, true, 4, 0, 0, 0, false, false, false⟩) := by decide
theorem test_decode_uniform : decodeTableWord 64 0x0300000005007101 =
    some (.pkMulLoU16 ⟨true, 0, 7, 0, 0, false, 5, 0, 0, 0, true, true, false⟩) := by decide
theorem test_decode_reserved : decodeTableWord 64 0x0000010002407002 = none ∧
    decodeTableWord 64 0x8000010002007002 = none := by decide
theorem test_decode_unassigned : decodeTableWord 64 0x0000010002007012 = none ∧
    decodeTableWord 64 0x00000100020070FF = none := by decide
theorem test_encode_modifiers :
    encode (.pkMulF32 ⟨false, 1, 6, 1, 0, false, 8, 6, 6, 0, false, false, false⟩) = 0x000006060800E231#64 := by decide

/-! The assembler (part 11, R66). -/

theorem test_assemble_add : (assemble ⟨"PK_ADD_I16", .row 2, [.row 0, .row 1], true, none, none, none, none, false⟩).map
    (fun x => encode x.1) = some 0x0000010002007102#64 := by decide
theorem test_assemble_mul : (assemble ⟨"PK_MUL_F32", .pair 8, [.pair 6, .pair 6], false, some [true, false],
    some [false, true], some [true, false], none, false⟩).map (fun x => encode x.1) = some 0x000006060800E231#64 := by decide
theorem test_assemble_uniform : (assemble ⟨"ACC_WRITE", .acc 3, [.uniform 0xDEADBEEF#64], false, none, none, none, none,
    false⟩).map (fun x => (encode x.1, x.2.1)) = some (0x0100000003007041#64, 0xDEADBEEF#64) := by decide
theorem test_assemble_refuses_row_for_pair :
    assemble ⟨"PK_MOV_B32", .row 4, [.pair 0, .pair 2], false, none, none, none, none, false⟩ = none := by decide

/-! Packed-16 and dot products (parts 5 and 6): without and with `CLAMP`. -/

theorem test_pkMadI16_clamp : low (.pkMadI16 (narrow true)) (abc 0x80008000 0x80007FFF 0x80000000) = some 0x7FFF8000 := by decide
theorem test_pkMulLoU16 : low (.pkMulLoU16 (narrow false)) (abc 0xFFFF0100 0xFFFF0100 0) = some 0x00010000 := by decide
theorem test_pkMulLoU16_clamp : low (.pkMulLoU16 (narrow true)) (abc 0x00030007 0x00050006 0) = some 0x000F002A := by decide
theorem test_pkAddI16 : low (.pkAddI16 (narrow false)) (abc 0x00017FFF 0x00020001 0) = some 0x00038000 := by decide
theorem test_pkAddI16_clamp : low (.pkAddI16 (narrow true)) (abc 0x8000FFFF 0xFFFF0001 0) = some 0x80000000 := by decide
theorem test_pkSubI16 : low (.pkSubI16 (narrow false)) (abc 0x80007FFF 0x0001FFFF 0) = some 0x7FFF8000 := by decide
theorem test_pkSubI16_clamp : low (.pkSubI16 (narrow true)) (abc 0x00050003 0x00030005 0) = some 0x0002FFFE := by decide
theorem test_pkAddU16 : low (.pkAddU16 (narrow false)) (abc 0xFFFF8000 0x00018000 0) = some 0x00000000 := by decide
theorem test_pkAddU16_clamp : low (.pkAddU16 (narrow true)) (abc 0x12340001 0x43210002 0) = some 0x55550003 := by decide
theorem test_pkSubU16 : low (.pkSubU16 (narrow false)) (abc 0x00000005 0x00010003 0) = some 0xFFFF0002 := by decide
theorem test_pkSubU16_clamp : low (.pkSubU16 (narrow true)) (abc 0xFFFF8000 0x00007FFF 0) = some 0xFFFF0001 := by decide
theorem test_pkMinI16 : low (.pkMinI16 (narrow false)) (abc 0xFFFF0001 0x00018000 0) = some 0xFFFF8000 := by decide
theorem test_pkMinI16_clamp : low (.pkMinI16 (narrow true)) (abc 0x7FFF8000 0x7FFF8000 0) = some 0x7FFF8000 := by decide
theorem test_pkMaxI16 : low (.pkMaxI16 (narrow false)) (abc 0xFFFF0001 0x00018000 0) = some 0x00010001 := by decide
theorem test_pkMaxI16_clamp : low (.pkMaxI16 (narrow true)) (abc 0xFFFF0001 0x00018000 0) = some 0x00010001 := by decide
theorem test_pkMinU16 : low (.pkMinU16 (narrow false)) (abc 0xFFFF0001 0x00018000 0) = some 0x00010001 := by decide
theorem test_pkMinU16_clamp : low (.pkMinU16 (narrow true)) (abc 0xFFFF0001 0x00018000 0) = some 0x00010001 := by decide
theorem test_pkMaxU16 : low (.pkMaxU16 (narrow false)) (abc 0xFFFF0001 0x00018000 0) = some 0xFFFF8000 := by decide
theorem test_pkMaxU16_clamp : low (.pkMaxU16 (narrow true)) (abc 0xFFFF0001 0x00018000 0) = some 0xFFFF8000 := by decide
theorem test_pkLshlrevB16 : low (.pkLshlrevB16 (narrow false)) (abc 0x000F0004 0x00018001 0) = some 0x80000010 := by decide
theorem test_pkLshlrevB16_clamp : low (.pkLshlrevB16 (narrow true)) (abc 0x00100014 0x12348001 0) = some 0x12340010 := by decide
theorem test_pkLshrrevB16 : low (.pkLshrrevB16 (narrow false)) (abc 0x000F0004 0x80008010 0) = some 0x00010801 := by decide
theorem test_pkLshrrevB16_clamp : low (.pkLshrrevB16 (narrow true)) (abc 0xFFF00001 0xABCD8000 0) = some 0xABCD4000 := by decide
theorem test_pkAshrrevI16 : low (.pkAshrrevI16 (narrow false)) (abc 0x000F0004 0x80008010 0) = some 0xFFFFF801 := by decide
theorem test_pkAshrrevI16_clamp : low (.pkAshrrevI16 (narrow true)) (abc 0x00010001 0x7FFFFFFE 0) = some 0x3FFFFFFF := by decide
theorem test_pkAddF16 : low (.pkAddF16 (narrow false)) (abc 0x00013C00 0x00011400 0) = some 0x00023C01 := by decide
theorem test_pkAddF16_clamp : low (.pkAddF16 (narrow true)) (abc 0xBC007BFF 0x38007BFF 0) = some 0x00003C00 := by decide
theorem test_pkMulF16 : low (.pkMulF16 (narrow false)) (abc 0x00013555 0x38004200 0) = some 0x00003C00 := by decide
theorem test_pkMulF16_clamp : low (.pkMulF16 (narrow true)) (abc 0x40003E00 0x3800C000 0) = some 0x3C000000 := by decide
theorem test_pkMinF16 : low (.pkMinF16 (narrow false)) (abc 0x3C00C000 0x40003C00 0) = some 0x3C00C000 := by decide
theorem test_pkMinF16_clamp : low (.pkMinF16 (narrow true)) (abc 0x7C00FC00 0x3C003C00 0) = some 0x3C000000 := by decide
theorem test_pkMaxF16 : low (.pkMaxF16 (narrow false)) (abc 0x3C00C000 0x40003C00 0) = some 0x40003C00 := by decide
theorem test_pkMaxF16_clamp : low (.pkMaxF16 (narrow true)) (abc 0x7C00FC00 0x3C003C00 0) = some 0x3C003C00 := by decide
theorem test_pkFmaF16 : low (.pkFmaF16 (narrow false)) (abc 0x3C013C01 0x3C033C01 0xBC04BC00) = some 0x00301800 := by decide
theorem test_pkFmaF16_clamp : low (.pkFmaF16 (narrow true)) (abc 0x7BFF0001 0x40003800 0x00000000) = some 0x3C000000 := by decide
theorem test_dot2I32I16 : low (.dot2I32I16 (narrow false)) (abc 0x00640003 0xFFFE0064 0x000003E8) = some 0x0000044C := by decide
theorem test_dot2I32I16_clamp : low (.dot2I32I16 (narrow true)) (abc 0x80008000 0x80008000 0x7FFFFFFF) = some 0x8000FFFD := by decide
theorem test_dot2U32U16 : low (.dot2U32U16 (narrow false)) (abc 0x00030002 0x00050004 0xFFFFFFFF) = some 0x00000016 := by decide
theorem test_dot2U32U16_clamp : low (.dot2U32U16 (narrow true)) (abc 0x01000100 0x01000100 0x00000007) = some 0x00020005 := by decide
theorem test_dot4I32I8 : low (.dot4I32I8 (narrow false)) (abc 0xFF02FE01 0x04FD0205 0xFFFFFFFF) = some 0xFFFFFFF6 := by decide
theorem test_dot4I32I8_clamp : low (.dot4I32I8 (narrow true)) (abc 0x02020202 0x64646464 0x00000000) = some 0x000001FC := by decide
theorem test_dot4U32U8 : low (.dot4U32U8 (narrow false)) (abc 0x0F0F0F0F 0x11111111 0xFFFFFFFF) = some 0x000003FB := by decide
theorem test_dot4U32U8_clamp : low (.dot4U32U8 (narrow true)) (abc 0x10101010 0x10101010 0x00000005) = some 0x00000401 := by decide
theorem test_dot8I32I4 : low (.dot8I32I4 (narrow false)) (abc 0xF1F1F1F1 0x12121212 0x00000064) = some 0x00000068 := by decide
theorem test_dot8I32I4_clamp : low (.dot8I32I4 (narrow true)) (abc 0x22222222 0x55555555 0x00000000) = some 0x00000038 := by decide
theorem test_dot8U32U4 : low (.dot8U32U4 (narrow false)) (abc 0x12345678 0x11111111 0x00000000) = some 0x00000024 := by decide
theorem test_dot8U32U4_clamp : low (.dot8U32U4 (narrow true)) (abc 0x44444444 0x44444444 0x00000001) = some 0x00000079 := by decide
theorem test_dot2F32F16 : low (.dot2F32F16 (narrow false)) (abc 0x3C003C00 0x3C003C00 0x4B800000) = some 0x4B800001 := by decide
theorem test_dot2F32F16_clamp : low (.dot2F32F16 (narrow true)) (abc 0x3800BC00 0x38004000 0x00000000) = some 0x3E800000 := by decide

/-! Dual float (part 7). -/

theorem test_pkFmaF32_0 : both (.pkFmaF32 (dual 5 2 0 0)) (pairs 0x400000003FC00000 0xC080000040400000 0x3F00000041200000) =
    some 0x4080000040D00000 := by decide +kernel

theorem test_pkMulF32_0 : both (.pkMulF32 (dual 3 3 1 0)) (pairs 0x400000003FC00000 0xC080000040400000 0) =
    some 0xC100000041000000 := by decide +kernel
theorem test_pkMulF32_1 : both (.pkMulF32 (dual 0 3 1 2)) (pairs 0x7F7FFFFF00000000 0x4000000080000000 0) =
    some 0xFF80000000000000 := by decide +kernel
theorem test_pkAddF32_0 : both (.pkAddF32 (dual 0 3 0 1)) (pairs 0x400000003FC00000 0xC080000040400000 0) =
    some 0xC0C0000040900000 := by decide
theorem test_pkAddF32_1 : both (.pkAddF32 (dual 0 3 0 0)) (pairs 0x3FC000003DCCCCCD 0xBFC000003E4CCCCD 0) =
    some 0x000000003E99999A := by decide

theorem test_pkMovB32_1 : both (.pkMovB32 (dual 1 0 1 0)) (pairs 0x1111111122222222 0x3333333344444444 0) =
    some 0x4444444411111111 := by decide
theorem test_pkFmaF32_bit0Only : both (.pkFmaF32 (dual 0 7 1 2))
    { pairs 0x400000003FC00000 0xC080000040400000 0x3F00000041200000 with params := ⟨16, true⟩ } =
    some 0xC0F00000C0B00000 := by decide +kernel

/-! The bridge (part 8). -/

/-- Rows 1, 3, 5 and 7 hold four patterns in lanes 0 and 1; only lane 1 is active; accumulator register 1 is row 5. -/
def bridge : State :=
  { State.reset with
    vr := rows [(1, 0, 0x11), (1, 1, 0x22), (3, 0, 0xAAAAAAAA), (3, 1, 0xBBBBBBBB), (5, 0, 0x7FC00001),
      (5, 1, 0x80000000), (7, 0, 0x01010101), (7, 1, 0x02020202)]
    inputs := ⟨0x2#64, 0xFFFFFFFFDEADBEEF#64, 0#64, 0#64, 4#16⟩
    params := ⟨16, false⟩ }

/-- Row `r` in lanes 0 and 1 after one command. -/
def twoLanes (r : Nat) (i : Instr) (s : State) : Option (Word × Word) :=
  match exec i s with
  | .next t => some (t.vr.read r 0, t.vr.read r 1)
  | _ => none

/-- Fields of the bridge: destination, source, uniform. -/
def moved (vdst src0 : Nat) (u0 : Bool) : Fields :=
  ⟨false, 0, 7, 0, 0, false, vdst, src0, 0, 0, u0, false, false⟩

theorem test_accRead_masked : twoLanes 3 (.accRead (moved 3 1 false)) bridge = some (0xAAAAAAAA, 0x80000000) := by decide
theorem test_accWrite_masked : twoLanes 7 (.accWrite (moved 3 1 false)) bridge = some (0x01010101, 0x22) := by decide
theorem test_accWrite_uniform : twoLanes 7 (.accWrite (moved 3 0 true)) bridge = some (0x01010101, 0xDEADBEEF) := by decide

/-! The driver (part 9): overlap of source and destination. -/

theorem test_mad_in_place : (match exec (.pkMadI16 ⟨false, 0, 7, 0, 0, false, 0, 0, 0, 0, false, false, false⟩)
    (abc 0x00020003 0 0) with | .next t => some (t.vr.read 0 0) | _ => none) = some 0x0006000C := by decide
theorem test_mov_overlap : (match exec (.pkMovB32 ⟨false, 0, 7, 0, 0, false, 1, 0, 0, 0, false, false, false⟩)
    (abc 0xAAAA0000 0xBBBB1111 0xCCCC2222) with
    | .next t => some (t.vr.read 0 0, t.vr.read 1 0, t.vr.read 2 0) | _ => none) =
    some (0xAAAA0000, 0xAAAA0000, 0xBBBB1111) := by decide

/-! Faults, warnings, reset (parts 10 and 13). -/

theorem test_completes : outcome (presented 0x0000010002007002 0 512) = some (0x00, some ⟨0, 0⟩, 1, false) := by decide
theorem test_reserved_bit : outcome (presented 0x0800010002007002 0 512) = some (0x32, some ⟨2, 3⟩, 0, true) := by decide
theorem test_unassigned_op : outcome (presented 0x0000010002007034 0 512) = some (0x32, some ⟨2, 3⟩, 0, true) := by decide
theorem test_accRead_uniform : outcome (presented 0x0100000002007040 0 512) = some (0x32, some ⟨2, 3⟩, 0, true) := by decide
theorem test_row_missing : outcome (presented 0x0000011002007002 0 16) = some (0x32, some ⟨2, 3⟩, 0, true) := by decide
theorem test_second_row_missing : outcome (presented 0x000002000F007032 0 16) = some (0x32, some ⟨2, 3⟩, 0, true) := by decide
theorem test_window_last_row : outcome (presented 0x00000000FF007041 256 512) = some (0x00, some ⟨0, 0⟩, 1, false) := by decide
theorem test_window_past_end : outcome (presented 0x00000000FF007041 257 512) = some (0x32, some ⟨2, 3⟩, 0, true) := by decide
theorem test_umod : outcome (presented 0x0000010002207002 0 512) = some (0x22, some ⟨2, 2⟩, 0, true) := by decide
theorem test_umod_and_row : outcome (presented 0x0000020F04207033 0 16) = some (0x32, some ⟨2, 3⟩, 0, true) := by decide
theorem test_warning : outcome (presented 0x000002000400F033 0 512) = some (0x11, some ⟨1, 1⟩, 1, false) := by decide
theorem test_bit2_silent : outcome (presented 0x0000020004027031 0 512) = some (0x00, some ⟨0, 0⟩, 1, false) := by decide
theorem test_fatal_after_warning : outcome { presented 0x0000010002207002 0 512 with pstat := 0x11 } =
    some (0x23, some ⟨2, 2⟩, 0, true) := by decide
theorem test_halted : outcome { presented 0x0000010002007002 0 512 with pstat := 0x32 } = none := by decide
theorem test_reset_after_halt : outcome { presented 0x0000010002007002 0 512 with
    pstat := 0x32, pending := (presented 0x0000010002007002 0 512).pending ++ [.reset] } =
    some (0x00, none, 0, true) := by decide
theorem test_withFetchWord : outcome (State.reset.withFetchWord 64 0x0000000102007001) =
    some (0x00, some ⟨0, 0⟩, 1, false) := by decide

/-! Floating-point primitives and clamps (parts 2 and 4). -/

theorem test_fma16_fused : fpFma16 0x3C01 0x3C03 0xBC04 = 0x0030 := by decide
theorem test_mul16_ties_to_even : fpMul16 0x3555 0x4200 = 0x3C00 ∧ fpMul16 0x0001 0x3800 = 0x0000 := by decide
theorem test_add16_overflow : fpAdd16 0x7BFF 0x7BFF = 0x7C00 := by decide
theorem test_fma32_no_intermediate_overflow : fpFma32 0x7F7FFFFF 0xC0000000 0x7F7FFFFF = 0xFF7FFFFF := by decide +kernel
theorem test_clampS_8 : clampS 8 200 true = 127 ∧ clampS 8 200 false = 0xC8 := by decide
theorem test_clampU_16_negative : clampU 16 (-1) true = 0 ∧ clampU 16 (-1) false = 0xFFFF := by decide

/-! Witnesses: for every obligation with hypotheses, a state and operands that meet all of them together, for each
clause, at the ends of its range where it has one. -/

/-- A command presented to a block in its reset state: `PK_ADD_I16 v2, v0, v1`. -/
def addPresented : Command := { word := 0x0000010002007002#64, inputs := State.reset.inputs }

/-- The command of `addPresented`. -/
def addV2 : Instr := .pkAddI16 ⟨false, 0, 7, 0, 0, false, 2, 0, 1, 0, false, false, false⟩

/-- The reset state with `addPresented` to take. -/
def ready : State := { State.reset with pending := [.command addPresented] }

/-- The state `abc` halted, with the caller's actions given. -/
def stopped (l : List CallerInput) : State := { abc 1 2 3 with pstat := 0x32#32, pending := l }

theorem witness_DecodeOfEncodeIsTheCommand :
    (Instr.accWrite ⟨true, 7, 0, 5, 2, true, 255, 0, 255, 128, true, false, true⟩).wellFormed = true := by decide

theorem witness_EncodeOfDecodeIsTheWord :
    decode 0x07FFFFFFFF3FFF33#64 = .ok (.pkMovB32 ⟨true, 7, 7, 7, 7, true, 255, 255, 255, 255, true, true, true⟩) := rfl

theorem witness_StepRunsTheDecodedCommand :
    ready.halted = false ∧ ready.pending = .command addPresented :: [] ∧ decode addPresented.word = .ok addV2 :=
  ⟨rfl, rfl, rfl⟩

theorem witness_IllegalWordIsFatal_reserved_low :
    (presented 0x0000010002407002 0 16).halted = false ∧
    (0x0000010002407002#64).extractLsb' 22 2 ≠ 0#2 ∧ (0x0000010002807002#64).extractLsb' 22 2 ≠ 0#2 := by decide

theorem witness_IllegalWordIsFatal_reserved_high :
    (presented 0x0800010002007002 0 16).halted = false ∧
    (0x0800010002007002#64).extractLsb' 59 5 ≠ 0#5 ∧ (0x8000010002007002#64).extractLsb' 59 5 ≠ 0#5 := by decide

theorem witness_IllegalWordIsFatal_unassigned :
    (presented 0x0000010002007012 0 16).halted = false ∧
    (∀ op ∈ [0x12, 0x1F, 0x27, 0x2F, 0x34, 0x3F, 0x42, 0xFF], opUnassigned op = true) ∧
    (∀ op ∈ [0x00, 0x11, 0x20, 0x26, 0x30, 0x33, 0x40, 0x41], opUnassigned op = false) := by decide

theorem witness_OutcomeFollowsTheCheckOrder :
    ready.halted = false ∧ ready.pending = .command addPresented :: [] := ⟨rfl, rfl⟩

/-- Words whose response is FATAL with either cause, and `OK_WARN`, in the state that `presented` gives (part 10). -/
theorem witness_OutcomeFollowsTheCheckOrder_branches :
    (∀ w ∈ [0x0000010002407002, 0x0000010002007012, 0x0100000002007040, 0x0000011002007002, 0x0000020F04207033],
      (presented (BitVec.ofNat 64 w) 0 16).halted = false ∧
      responseByChecks (BitVec.ofNat 64 w) 0 16 = { code := 2#2, cause := 3#4 }) ∧
    responseByChecks 0x0000010002207002#64 0 16 = { code := 2#2, cause := 2#4 } ∧
    responseByChecks 0x000002000400F033#64 0 16 = { code := 1#2, cause := 1#4 } ∧
    responseByChecks 0x0000020004027031#64 0 16 = { code := 0#2, cause := 0#4 } := by decide

theorem witness_OutcomeFollowsTheCheckOrder_fatal :
    (presented 0x0000010002207002 0 16).halted = false ∧
    (presented 0x0000010002207002 0 16).pending =
      .command { word := 0x0000010002207002#64, inputs := ⟨0x1#64, 0#64, 0#64, 0#64, 0#16⟩ } :: [] := ⟨rfl, rfl⟩

theorem witness_OutcomeFollowsTheCheckOrder_warning :
    (presented 0x000002000400F033 0 16).halted = false ∧
    (presented 0x000002000400F033 0 16).pending =
      .command { word := 0x000002000400F033#64, inputs := ⟨0x1#64, 0#64, 0#64, 0#64, 0#16⟩ } :: [] := ⟨rfl, rfl⟩

theorem witness_HaltedBlockAcceptsNoCommand_exec : (stopped []).halted = true := rfl

theorem witness_HaltedBlockAcceptsNoCommand_step : (stopped [.command addPresented]).halted = true ∧
    ∀ a ∈ (stopped [.command addPresented]).pending, ∃ c, a = .command c := by
  refine ⟨rfl, fun a ha => ⟨addPresented, ?_⟩⟩
  simpa [stopped] using ha

theorem witness_HaltedBlockAcceptsNoCommand_leaves :
    ∃ t, (stopped [.command addPresented, .reset]).halted = true ∧
      step (stopped [.command addPresented, .reset]) = .next t ∧ t.halted = false := ⟨_, rfl, rfl, rfl⟩

theorem witness_ResetClearsStatusAndKeepsRows_first :
    (stopped [.reset, .command addPresented]).pending = .reset :: [.command addPresented] := rfl

theorem witness_ResetClearsStatusAndKeepsRows_passed_over :
    (stopped [.command addPresented, .reset]).halted = true ∧
    (stopped [.command addPresented, .reset]).pending = [addPresented].map .command ++ .reset :: [] := ⟨rfl, rfl⟩

theorem witness_IllegalOperandsAreFatal_source : (abc 1 2 3).halted = false ∧
    ∃ k, k < (catalog (.pkMadI16 (narrow false))).arity ∧
      srcUniform ⟨false, 0, 7, 0, 0, false, 6, 0, 1, 16, false, false, false⟩ k = false ∧
      (abc 1 2 3).params.nreg ≤ sourceRow (catalog (.pkMadI16 (narrow false)))
        ⟨false, 0, 7, 0, 0, false, 6, 0, 1, 16, false, false, false⟩ (abc 1 2 3) k +
        extraRows (catalog (.pkMadI16 (narrow false))) := ⟨rfl, 2, by decide⟩

theorem witness_IllegalOperandsAreFatal_destination : (abc 1 2 3).halted = false ∧
    (abc 1 2 3).params.nreg ≤ destRow (catalog (.pkMovB32 (dual 0 7 0 0)))
      ⟨false, 0, 7, 0, 0, false, 15, 0, 2, 0, false, false, false⟩ (abc 1 2 3) +
      extraRows (catalog (.pkMovB32 (dual 0 7 0 0))) := by decide

theorem witness_IllegalOperandsAreFatal_uniform : bridge.halted = false ∧
    ∃ f, Instr.accRead (moved 3 1 true) = .accRead f ∧ f.u0 = true := ⟨rfl, _, rfl, rfl⟩

/-- Fields of `v6, v0, v2, v4` with the modifiers given. -/
def wideFields (clamp umod : Bool) (neg negHi : BitVec 3) : Fields :=
  ⟨clamp, 0, 7, neg, negHi, umod, 6, 0, 2, 4, false, false, false⟩

theorem witness_MicroModifierModeIsFatal : (abc 1 2 3).halted = false ∧
    OperandsLegal (.pkMovB32 (wideFields false true 0 0)) (abc 1 2 3) ∧
    (Instr.pkMovB32 (wideFields false true 0 0)).fields.umod = true :=
  ⟨rfl, (operandsLegal_iff _ _).2 ⟨rfl, rfl⟩, rfl⟩

theorem witness_MicroModifierModeIsFatal_converse : ∃ t,
    exec (.dot2I32I16 (wideFields false true 0 0)) (abc 1 2 3) = .next t ∧ t.resp = some ⟨2#2, 2#4⟩ :=
  ⟨_, exec_of_fatalCause rfl rfl, rfl⟩

theorem witness_WarningExecutesAsWithoutModifier :
    Executes (.pkMovB32 (wideFields false false 1 0)) (abc 1 2 3) ∧
    Executes (.pkAddI16 (wideFields false false 0 4)) (abc 1 2 3) ∧
    ((wideFields false false 1 0).neg ≠ 0#3 ∧ (wideFields false false 0 4).negHi ≠ 0#3) ∧
    (∀ f, Instr.pkMovB32 (wideFields false false 1 0) ≠ .pkFmaF32 f ∧
      Instr.pkMovB32 (wideFields false false 1 0) ≠ .pkMulF32 f ∧
      Instr.pkMovB32 (wideFields false false 1 0) ≠ .pkAddF32 f) :=
  ⟨(executes_iff _ _).2 ⟨rfl, rfl⟩, (executes_iff _ _).2 ⟨rfl, rfl⟩, by decide, fun _ => by simp⟩

theorem witness_WarningExecutesAsWithoutModifier_converse : ∃ t,
    exec (.pkAddI16 (wideFields false false 0 4)) (abc 1 2 3) = .next t ∧ t.resp = some ⟨1#2, 1#4⟩ := ⟨_, rfl, rfl⟩

theorem witness_StatusBitsAreSticky_warn : ∃ t, pstatWarn ({ ready with pstat := 0x11#32 } : State).pstat = true ∧
    step { ready with pstat := 0x11#32 } = .next t := ⟨_, rfl, rfl⟩

theorem witness_StatusBitsAreSticky_fatal : ∃ t, pstatFatal (stopped [.writeLane 3 7 5]).pstat = true ∧
    step (stopped [.writeLane 3 7 5]) = .next t := ⟨_, rfl, rfl⟩

theorem witness_InactiveLanesAreUntouchedAndUnseen : ∃ t,
    exec (.accRead (moved 3 1 false)) bridge = .next t ∧ ¬ bridge.laneActive 0 ∧ bridge.laneActive 1 :=
  ⟨_, rfl, by unfold State.laneActive; decide, by unfold State.laneActive; decide⟩

/-- `bridge` with the inactive lane 0 of row 1 changed. -/
def bridgeElsewhere : State := { bridge with vr := bridge.vr.write 1 0 0x99#32 }

theorem witness_InactiveLanesAreUntouchedAndUnseen_other : ∃ t,
    bridgeElsewhere = { bridge with vr := bridgeElsewhere.vr } ∧
    (∀ r l, bridge.laneActive l → bridgeElsewhere.vr.read r l = bridge.vr.read r l) ∧
    bridgeElsewhere.vr.read 1 0 ≠ bridge.vr.read 1 0 ∧
    exec (.accWrite (moved 3 1 false)) bridge = .next t := by
  refine ⟨_, rfl, fun r l hl => ?_, by decide, rfl⟩
  show (bridge.vr.write 1 0 0x99#32).read r l = _
  rw [RegFile.read_write, if_neg]
  rintro ⟨_, rfl⟩
  exact absurd hl (by unfold State.laneActive; decide)

theorem witness_LaneResultDependsOnItsLaneOnly : ∃ t t', SameInLane 1 bridge bridgeElsewhere ∧
    exec (.accWrite (moved 3 1 false)) bridge = .next t ∧
    exec (.accWrite (moved 3 1 false)) bridgeElsewhere = .next t' := by
  refine ⟨_, _, ⟨rfl, fun r => ?_⟩, rfl, rfl⟩
  show _ = (bridge.vr.write 1 0 0x99#32).read r 1
  rw [RegFile.read_write, if_neg]
  rintro ⟨_, h⟩
  exact absurd h (by decide)

/-- `bridge` with no active lane. -/
def bridgeEmpty : State := { bridge with inputs := { bridge.inputs with exec := 0#64 } }

theorem witness_EmptyMaskChangesNoRow : ∃ t, bridgeEmpty.inputs.exec = 0#64 ∧
    exec (.pkAddI16 (narrow true)) bridgeEmpty = .next t := ⟨_, rfl, rfl⟩

theorem witness_UniformOperandIsABroadcast : ∃ t,
    1 < (catalog (.pkAddI16 (narrow true))).arity ∧ srcUniform (narrow true) 1 = false ∧
    (catalog (.pkAddI16 (narrow true))).accSource = false ∧
    sourceRow (catalog (.pkAddI16 (narrow true))) (narrow true) (abc 1 2 3) 1 +
      extraRows (catalog (.pkAddI16 (narrow true))) < (abc 1 2 3).params.nreg ∧
    (∀ l, (abc 1 2 3).laneActive l →
      (abc 1 2 3).vr.read (sourceRow (catalog (.pkAddI16 (narrow true))) (narrow true) (abc 1 2 3) 1) l =
        (0xFFFFFFFF00000002#64).extractLsb' 0 32 ∧ ((catalog (.pkAddI16 (narrow true))).wide = true → False)) ∧
    exec (.pkAddI16 (narrow true)) (abc 1 2 3) = .next t := by
  refine ⟨_, by decide, by decide, by decide, by decide, ?_, rfl⟩
  unfold State.laneActive
  decide

theorem witness_UniformOperandIsABroadcast_wide : ∃ t,
    0 < (catalog (.pkMovB32 (dual 0 7 0 0))).arity ∧ srcUniform (dual 0 7 0 0) 0 = false ∧
    (∀ l, (pairs 0x0000000500000006 7 8).laneActive l →
      (pairs 0x0000000500000006 7 8).vr.read 0 l = (0x0000000500000006#64).extractLsb' 0 32 ∧
      (pairs 0x0000000500000006 7 8).vr.read (0 + 1) l = (0x0000000500000006#64).extractLsb' 32 32) ∧
    exec (.pkMovB32 (dual 0 7 0 0)) (pairs 0x0000000500000006 7 8) = .next t := by
  refine ⟨_, by decide, by decide, ?_, rfl⟩
  unfold State.laneActive
  decide

theorem witness_IgnoredFieldsHaveNoEffect : ∃ t,
    AgreeOnUsed (.pkMovB32 (dual 0 7 0 0)) ⟨true, 6, 2, 0, 0, false, 6, 0, 2, 99, false, false, true⟩
      (pairs 1 2 3).inputs { (pairs 1 2 3).inputs with uval0 := 5, uval2 := 7, accOffset := 300 } ∧
    exec (.pkMovB32 (dual 0 7 0 0)) (pairs 1 2 3) = .next t := by
  refine ⟨_, ⟨by decide, rfl, rfl, ?_, by decide, rfl, by decide, by decide, by decide⟩, rfl⟩
  decide

theorem witness_IgnoredFieldsHaveNoEffect_narrow : ∃ t,
    AgreeOnUsed (.pkAddI16 (narrow true)) ⟨true, 7, 0, 0, 0, false, 6, 0, 1, 200, false, false, true⟩
      (abc 1 2 3).inputs { (abc 1 2 3).inputs with uval0 := 5, accOffset := 9 } ∧
    exec (.pkAddI16 (narrow true)) (abc 1 2 3) = .next t := by
  refine ⟨_, ⟨by decide, rfl, rfl, ?_, by decide, rfl, Iff.rfl⟩, rfl⟩
  decide

theorem witness_LaneOrderIsUnobservable : bridge.vr.WF ∧
    (activeLanes 0x2B#64).reverse.Perm (activeLanes 0x2B#64) := ⟨by decide, List.reverse_perm _⟩

theorem witness_BridgeOntoItselfChangesNothing_read : Executes (.accRead (moved 5 1 false)) bridge ∧
    (moved 5 1 false).src0 + bridge.inputs.accOffset.toNat = (moved 5 1 false).vdst :=
  ⟨(executes_iff _ _).2 ⟨rfl, rfl⟩, rfl⟩

theorem witness_BridgeOntoItselfChangesNothing_write : Executes (.accWrite (moved 1 5 false)) bridge ∧
    (moved 1 5 false).u0 = false ∧
    (moved 1 5 false).vdst + bridge.inputs.accOffset.toNat = (moved 1 5 false).src0 :=
  ⟨(executes_iff _ _).2 ⟨rfl, rfl⟩, rfl, rfl⟩

theorem witness_BridgeOntoItselfChangesNothing_row : Executes (.accRead (moved 3 1 false)) bridge ∧
    (moved 3 1 false).src0 + bridge.inputs.accOffset.toNat = 5 ∧ bridge.laneActive 1 :=
  ⟨(executes_iff _ _).2 ⟨rfl, rfl⟩, rfl, by unfold State.laneActive; decide⟩

theorem witness_BridgeOntoItselfChangesNothing_window : ∃ t, Executes (.accWrite (moved 3 1 false)) bridge ∧
    Executes (.pkMaxU16 ⟨false, 0, 7, 0, 0, false, 9, 7, 7, 0, false, false, false⟩) bridge ∧
    7 = (moved 3 1 false).vdst + bridge.inputs.accOffset.toNat ∧
    exec (.accWrite (moved 3 1 false)) bridge = .next t :=
  ⟨_, (executes_iff _ _).2 ⟨rfl, rfl⟩, (executes_iff _ _).2 ⟨rfl, rfl⟩, rfl, rfl⟩

theorem witness_EveryStepKeepsTheInvariant : ∃ t,
    ({ presented 0x0000010002007002 0 16 with pstat := 0x11#32, resp := some ⟨1#2, 1#4⟩ } : State).Inv ∧
    step { presented 0x0000010002007002 0 16 with pstat := 0x11#32, resp := some ⟨1#2, 1#4⟩ } = .next t := by
  refine ⟨_, ⟨by decide, by decide, by decide, by unfold PstatLegal; decide, ?_⟩, rfl⟩
  exact .inr (.inl ⟨rfl, rfl, rfl⟩)

theorem witness_SplitAndJoinAreInverse : 64 ∈ [32, 64] ∧ 4 ∈ [4, 8, 16, 32] ∧ 4 ∣ 64 ∧
    (List.replicate 16 (9#4)).length = 64 / 4 ∧ 32 ∈ [32, 64] ∧ 32 ∈ [4, 8, 16, 32] ∧ 32 ∣ 32 := by decide

theorem witness_ClampsSaturateOrTruncate : 1 ≤ 16 ∧
    (-(2 ^ (16 - 1)) ≤ (-32768 : Int) ∧ (-32768 : Int) ≤ 2 ^ (16 - 1) - 1) ∧
    (-(2 ^ (16 - 1)) ≤ (32767 : Int) ∧ (32767 : Int) ≤ 2 ^ (16 - 1) - 1) ∧
    ((0 : Int) ≤ 65535 ∧ (65535 : Int) ≤ 2 ^ 16 - 1) ∧ clampS 16 (-32769) true = 0x8000 ∧
    clampU 16 65536 true = 0xFFFF := by decide

theorem witness_UnitClamp32IsTwoOrderedComparisons :
    (0x7F800000 < (0x7F800001#32).toNat % 2 ^ 31 ∧ uclamp32 0x7F800001#32 true = 0x7F800001#32) ∧
    (0x7F800000 < (0x7FFFFFFF#32).toNat % 2 ^ 31 ∧ uclamp32 0x7FFFFFFF#32 true = 0x7FFFFFFF#32) ∧
    (0x7F800000 < (0xFF800001#32).toNat % 2 ^ 31 ∧ uclamp32 0xFF800001#32 true = 0xFF800001#32) ∧
    (0x7F800000 < (0xFFFFFFFF#32).toNat % 2 ^ 31 ∧ uclamp32 0xFFFFFFFF#32 true = 0xFFFFFFFF#32) ∧
    ((0x00000000#32).toNat ≤ 0x3F800000 ∧ uclamp32 0x00000000#32 true = 0x00000000#32) ∧
    ((0x3F800000#32).toNat ≤ 0x3F800000 ∧ uclamp32 0x3F800000#32 true = 0x3F800000#32) ∧
    (0x80000000 < (0x80000001#32).toNat ∧ (0x80000001#32).toNat ≤ 0xFF800000 ∧ uclamp32 0x80000001#32 true = 0) ∧
    (0x80000000 < (0xFF800000#32).toNat ∧ (0xFF800000#32).toNat ≤ 0xFF800000 ∧ uclamp32 0xFF800000#32 true = 0) ∧
    (0x3F800000 < (0x3F800001#32).toNat ∧ (0x3F800001#32).toNat ≤ 0x7F800000 ∧ uclamp32 0x3F800001#32 true = 0x3F800000#32) ∧
    (0x3F800000 < (0x7F800000#32).toNat ∧ (0x7F800000#32).toNat ≤ 0x7F800000 ∧ uclamp32 0x7F800000#32 true = 0x3F800000#32) := by decide

theorem witness_HalfClampIsMinThenMax :
    (0x3C00 < (0x3C01#16).toNat ∧ (0x3C01#16).toNat ≤ 0x7C00 ∧ hclamp16 0x3C01#16 true = 0x3C00#16) ∧
    (0x3C00 < (0x7C00#16).toNat ∧ (0x7C00#16).toNat ≤ 0x7C00 ∧ hclamp16 0x7C00#16 true = 0x3C00#16) ∧
    (0x8000 < (0x8001#16).toNat ∧ (0x8001#16).toNat ≤ 0xFC00 ∧ hclamp16 0x8001#16 true = 0x0000#16) ∧
    (0x8000 < (0xFC00#16).toNat ∧ (0xFC00#16).toNat ≤ 0xFC00 ∧ hclamp16 0xFC00#16 true = 0x0000#16) ∧
    ((0x0000#16).toNat ≤ 0x3C00 ∧ hclamp16 0x0000#16 true = 0x0000#16) ∧
    ((0x3C00#16).toNat ≤ 0x3C00 ∧ hclamp16 0x3C00#16 true = 0x3C00#16) := by decide

theorem witness_MinMax16SelectsAnOperand :
    (0x7C00#16).toNat % 2 ^ 15 ≤ 0x7C00 ∧ (0xFC00#16).toNat % 2 ^ 15 ≤ 0x7C00 ∧
    (0x8000#16).toNat % 2 ^ 15 ≤ 0x7C00 ∧ (0x8001#16).toNat % 2 ^ 15 ≤ 0x7C00 ∧
    signMagnitude16 0xFC00#16 < signMagnitude16 0x7C00#16 ∧ fpMin16 0x7C00#16 0xFC00#16 = 0xFC00#16 ∧
    signMagnitude16 0x8001#16 < signMagnitude16 0x8000#16 ∧ fpMin16 0x8000#16 0x8001#16 = 0x8001#16 ∧
    (0x8000#16).toNat % 2 ^ 15 = 0 ∧ (0x0000#16).toNat % 2 ^ 15 = 0 := by decide

theorem witness_Convert16To32IsExact :
    IsFinite binary16 (0x7BFF#16).toNat ∧ IsFinite binary16 (0x8001#16).toNat ∧
    IsNaNPattern binary16 (0x7C01#16).toNat ∧ IsNaNPattern binary16 (0xFFFF#16).toNat := by
  unfold IsFinite IsNaNPattern
  decide

theorem witness_FiniteArithmeticIsCorrectlyRounded :
    (IsFinite binary16 (0x7BFF#16).toNat ∧ IsFinite binary16 (0x0001#16).toNat ∧ IsFinite binary16 (0x8000#16).toNat) ∧
    (IsFinite binary32 (0x7F7FFFFF#32).toNat ∧ IsFinite binary32 (0x80000001#32).toNat ∧
      IsFinite binary32 (0x00000000#32).toNat) ∧
    ((0x0001#16).toNat % 2 ^ 15 ≠ 0 ∧ ¬ IsNaNPattern binary16 (0x0001#16).toNat ∧
      (0x7C00#16).toNat % 2 ^ 15 ≠ 0 ∧ ¬ IsNaNPattern binary16 (0x7C00#16).toNat) ∧
    ((0xFF800000#32).toNat % 2 ^ 31 ≠ 0 ∧ ¬ IsNaNPattern binary32 (0xFF800000#32).toNat) := by
  unfold IsFinite IsNaNPattern
  decide

theorem witness_FiniteArithmeticIsCorrectlyRounded_zero_sum :
    binaryValue binary16 (0x3E00#16).toNat + binaryValue binary16 (0xBE00#16).toNat = 0 ∧
    binaryValue binary32 (0x80000000#32).toNat + binaryValue binary32 (0x80000000#32).toNat = 0 := by
  norm_num [binaryValue, binary16, binary32]

theorem witness_InvalidOperationsGiveANaN :
    (IsNaNPattern binary16 (0x7C01#16).toNat ∧ IsNaNPattern binary32 (0xFFFFFFFF#32).toNat) ∧
    ((0x8000#16).toNat % 2 ^ 15 = 0 ∧ (0xFC00#16).toNat % 2 ^ 15 = 0x7C00) ∧
    ((0x80000000#32).toNat % 2 ^ 31 = 0 ∧ (0xFF800000#32).toNat % 2 ^ 31 = 0x7F800000) := by
  unfold IsNaNPattern
  decide

/-! Each command executes in some state, with the last row addressed at the end of the range. -/

theorem witness_PkMadI16Result : Executes (.pkMadI16 ⟨true, 0, 7, 0, 0, false, 15, 0, 2, 4, false, false, true⟩) (abc 1 2 3) :=
  (executes_iff _ _).2 ⟨rfl, rfl⟩
theorem witness_PkMulLoU16Result : Executes (.pkMulLoU16 ⟨true, 0, 7, 0, 0, false, 15, 0, 2, 4, false, false, true⟩) (abc 1 2 3) :=
  (executes_iff _ _).2 ⟨rfl, rfl⟩
theorem witness_PkAddI16Result : Executes (.pkAddI16 ⟨true, 0, 7, 0, 0, false, 15, 0, 2, 4, false, false, true⟩) (abc 1 2 3) :=
  (executes_iff _ _).2 ⟨rfl, rfl⟩
theorem witness_PkSubI16Result : Executes (.pkSubI16 ⟨true, 0, 7, 0, 0, false, 15, 0, 2, 4, false, false, true⟩) (abc 1 2 3) :=
  (executes_iff _ _).2 ⟨rfl, rfl⟩
theorem witness_PkAddU16Result : Executes (.pkAddU16 ⟨true, 0, 7, 0, 0, false, 15, 0, 2, 4, false, false, true⟩) (abc 1 2 3) :=
  (executes_iff _ _).2 ⟨rfl, rfl⟩
theorem witness_PkSubU16Result : Executes (.pkSubU16 ⟨true, 0, 7, 0, 0, false, 15, 0, 2, 4, false, false, true⟩) (abc 1 2 3) :=
  (executes_iff _ _).2 ⟨rfl, rfl⟩
theorem witness_PkMinI16Result : Executes (.pkMinI16 ⟨true, 0, 7, 0, 0, false, 15, 0, 2, 4, false, false, true⟩) (abc 1 2 3) :=
  (executes_iff _ _).2 ⟨rfl, rfl⟩
theorem witness_PkMaxI16Result : Executes (.pkMaxI16 ⟨true, 0, 7, 0, 0, false, 15, 0, 2, 4, false, false, true⟩) (abc 1 2 3) :=
  (executes_iff _ _).2 ⟨rfl, rfl⟩
theorem witness_PkMinU16Result : Executes (.pkMinU16 ⟨true, 0, 7, 0, 0, false, 15, 0, 2, 4, false, false, true⟩) (abc 1 2 3) :=
  (executes_iff _ _).2 ⟨rfl, rfl⟩
theorem witness_PkMaxU16Result : Executes (.pkMaxU16 ⟨true, 0, 7, 0, 0, false, 15, 0, 2, 4, false, false, true⟩) (abc 1 2 3) :=
  (executes_iff _ _).2 ⟨rfl, rfl⟩
theorem witness_PkLshlrevB16Result : Executes (.pkLshlrevB16 ⟨true, 0, 7, 0, 0, false, 15, 0, 2, 4, false, false, true⟩) (abc 1 2 3) :=
  (executes_iff _ _).2 ⟨rfl, rfl⟩
theorem witness_PkLshrrevB16Result : Executes (.pkLshrrevB16 ⟨true, 0, 7, 0, 0, false, 15, 0, 2, 4, false, false, true⟩) (abc 1 2 3) :=
  (executes_iff _ _).2 ⟨rfl, rfl⟩
theorem witness_PkAshrrevI16Result : Executes (.pkAshrrevI16 ⟨true, 0, 7, 0, 0, false, 15, 0, 2, 4, false, false, true⟩) (abc 1 2 3) :=
  (executes_iff _ _).2 ⟨rfl, rfl⟩
theorem witness_PkAddF16Result : Executes (.pkAddF16 ⟨true, 0, 7, 0, 0, false, 15, 0, 2, 4, false, false, true⟩) (abc 1 2 3) :=
  (executes_iff _ _).2 ⟨rfl, rfl⟩
theorem witness_PkMulF16Result : Executes (.pkMulF16 ⟨true, 0, 7, 0, 0, false, 15, 0, 2, 4, false, false, true⟩) (abc 1 2 3) :=
  (executes_iff _ _).2 ⟨rfl, rfl⟩
theorem witness_PkMinF16Result : Executes (.pkMinF16 ⟨true, 0, 7, 0, 0, false, 15, 0, 2, 4, false, false, true⟩) (abc 1 2 3) :=
  (executes_iff _ _).2 ⟨rfl, rfl⟩
theorem witness_PkMaxF16Result : Executes (.pkMaxF16 ⟨true, 0, 7, 0, 0, false, 15, 0, 2, 4, false, false, true⟩) (abc 1 2 3) :=
  (executes_iff _ _).2 ⟨rfl, rfl⟩
theorem witness_PkFmaF16Result : Executes (.pkFmaF16 ⟨true, 0, 7, 0, 0, false, 15, 0, 2, 4, false, false, true⟩) (abc 1 2 3) :=
  (executes_iff _ _).2 ⟨rfl, rfl⟩
theorem witness_Dot2I32I16Result : Executes (.dot2I32I16 ⟨true, 0, 7, 0, 0, false, 15, 0, 2, 4, false, false, true⟩) (abc 1 2 3) :=
  (executes_iff _ _).2 ⟨rfl, rfl⟩
theorem witness_Dot2U32U16Result : Executes (.dot2U32U16 ⟨true, 0, 7, 0, 0, false, 15, 0, 2, 4, false, false, true⟩) (abc 1 2 3) :=
  (executes_iff _ _).2 ⟨rfl, rfl⟩
theorem witness_Dot4I32I8Result : Executes (.dot4I32I8 ⟨true, 0, 7, 0, 0, false, 15, 0, 2, 4, false, false, true⟩) (abc 1 2 3) :=
  (executes_iff _ _).2 ⟨rfl, rfl⟩
theorem witness_Dot4U32U8Result : Executes (.dot4U32U8 ⟨true, 0, 7, 0, 0, false, 15, 0, 2, 4, false, false, true⟩) (abc 1 2 3) :=
  (executes_iff _ _).2 ⟨rfl, rfl⟩
theorem witness_Dot8I32I4Result : Executes (.dot8I32I4 ⟨true, 0, 7, 0, 0, false, 15, 0, 2, 4, false, false, true⟩) (abc 1 2 3) :=
  (executes_iff _ _).2 ⟨rfl, rfl⟩
theorem witness_Dot8U32U4Result : Executes (.dot8U32U4 ⟨true, 0, 7, 0, 0, false, 15, 0, 2, 4, false, false, true⟩) (abc 1 2 3) :=
  (executes_iff _ _).2 ⟨rfl, rfl⟩
theorem witness_Dot2F32F16Result : Executes (.dot2F32F16 ⟨true, 0, 7, 0, 0, false, 15, 0, 2, 4, false, false, true⟩) (abc 1 2 3) :=
  (executes_iff _ _).2 ⟨rfl, rfl⟩
theorem witness_PkFmaF32Result : Executes (.pkFmaF32 ⟨true, 0, 7, 0, 0, false, 14, 0, 2, 4, false, false, true⟩) (abc 1 2 3) :=
  (executes_iff _ _).2 ⟨rfl, rfl⟩
theorem witness_PkMulF32Result : Executes (.pkMulF32 ⟨true, 0, 7, 0, 0, false, 14, 0, 2, 4, false, false, true⟩) (abc 1 2 3) :=
  (executes_iff _ _).2 ⟨rfl, rfl⟩
theorem witness_PkAddF32Result : Executes (.pkAddF32 ⟨true, 0, 7, 0, 0, false, 14, 0, 2, 4, false, false, true⟩) (abc 1 2 3) :=
  (executes_iff _ _).2 ⟨rfl, rfl⟩
theorem witness_PkMovB32Result : Executes (.pkMovB32 ⟨true, 0, 7, 0, 0, false, 14, 0, 2, 4, false, false, true⟩) (abc 1 2 3) :=
  (executes_iff _ _).2 ⟨rfl, rfl⟩

theorem witness_AccReadCopiesFromTheWindow : bridge.halted = false ∧ (moved 15 11 false).u0 = false ∧
    (moved 15 11 false).src0 + bridge.inputs.accOffset.toNat < bridge.params.nreg ∧
    (moved 15 11 false).vdst < bridge.params.nreg ∧ (moved 15 11 false).umod = false := by decide

theorem witness_AccReadCopiesFromTheWindow_illegal : bridge.halted = false ∧ (moved 3 1 true).u0 = true ∧
    bridge.params.nreg ≤ (moved 3 12 false).src0 + bridge.inputs.accOffset.toNat ∧
    bridge.params.nreg ≤ (moved 16 1 false).vdst := by decide

theorem witness_AccWriteCopiesToTheWindow : bridge.halted = false ∧ (moved 11 0 true).u0 = true ∧
    (moved 11 15 false).src0 < bridge.params.nreg ∧
    (moved 11 15 false).vdst + bridge.inputs.accOffset.toNat < bridge.params.nreg ∧
    (moved 11 15 false).umod = false := by decide

theorem witness_AccWriteCopiesToTheWindow_illegal : bridge.halted = false ∧
    ((moved 3 16 false).u0 = false ∧ bridge.params.nreg ≤ (moved 3 16 false).src0) ∧
    bridge.params.nreg ≤ (moved 12 1 false).vdst + bridge.inputs.accOffset.toNat := by decide

end Sys2Proof.Tests
end

/-! PROOFS. The state of the block (10_state.md): the halted state and what ends it (R18), the sticky status bits (R17),
inactive lanes (R21), and the reset state (R22). -/

namespace Sys2Proof.Machine

/-- A caller's write with a next state is to a row that exists, and leaves all but the row lane written (R36, R37). -/
theorem State.callerWrite_next {s t : State} {r : Nat} {l : Lane} {v : Word} (h : s.callerWrite r l v = .next t) :
    r < s.params.nreg ∧ t = { s with vr := s.vr.write r l v } := by
  unfold State.callerWrite at h
  split_ifs at h with hr
  cases h
  exact ⟨hr, rfl⟩

/-- Passing over a sequence with only commands leaves nothing. -/
theorem dropCommands_eq_nil {cs : List CallerInput} (h : ∀ a ∈ cs, ∃ c, a = .command c) : dropCommands cs = [] := by
  induction cs with
  | nil => rfl
  | cons a cs ih =>
    obtain ⟨c, rfl⟩ := h a (by simp)
    exact ih fun b hb => h b (by simp [hb])

/-- A command presented to a halted block has no step (R18). -/
theorem exec_of_halted (i : Instr) {s : State} (h : s.halted = true) : exec i s = .fault .halted := by
  obtain ⟨v, hv⟩ := exec_runs i s
  rw [hv]
  simp [runCommand, h]

/-- A step that finds nothing to take ends the run. -/
theorem step_of_toTake_nil {s : State} (h : s.toTake = []) : step s = .fault s.endFault := by
  simp [step, h]

/-- What a next state of a step can be: that of reset, of a caller's write, of an illegal word or of a command. -/
theorem step_next {s t : State} (h : step s = .next t) :
    (∃ rest, s.toTake = .reset :: rest ∧ t = ({ s with pending := rest } : State).applyReset) ∨
    (∃ r l v rest, s.toTake = .writeLane r l v :: rest ∧ r < s.params.nreg ∧
      t = { s with pending := rest, vr := s.vr.write r l v }) ∨
    (∃ c rest e, s.toTake = .command c :: rest ∧ decode c.word = .error e ∧
      t = (s.accept c.inputs rest).raiseFatal .illegalCommand) ∨
    (∃ c rest i, s.toTake = .command c :: rest ∧ decode c.word = .ok i ∧
      exec i (s.accept c.inputs rest) = .next t) := by
  rcases step_cases s with ⟨_, e⟩ | ⟨rest, ht, e⟩ | ⟨r, l, v, rest, ht, e⟩ | ⟨c, rest, err, ht, hd, e⟩ |
    ⟨c, rest, i, ht, hd, e⟩ <;> rw [e] at h
  · cases h
  · cases h
    exact .inl ⟨rest, ht, rfl⟩
  · exact .inr (.inl ⟨r, l, v, rest, ht, State.callerWrite_next h⟩)
  · cases h
    exact .inr (.inr (.inl ⟨c, rest, err, ht, hd, rfl⟩))
  · exact .inr (.inr (.inr ⟨c, rest, i, ht, hd, h⟩))

/-- Settles O7: of the actions a halted block can take, only reset clears FATAL. -/
theorem haltedBlockAcceptsNoCommand : Obligations.HaltedBlockAcceptsNoCommand := by
  refine ⟨fun _ => rfl, fun i s h => exec_of_halted i h, fun s h honly => ?_, fun s t h hstep hlive => ?_⟩
  · have hnil : s.toTake = [] := (toTake_halted h).trans (dropCommands_eq_nil honly)
    rw [step_of_toTake_nil hnil]
    simp [State.endFault, h]
  · rcases step_next hstep with ⟨rest, _, rfl⟩ | ⟨_, _, _, _, _, _, rfl⟩ | ⟨_, _, _, ht, _⟩ | ⟨_, _, _, ht, _⟩
    · exact ⟨rest, rfl⟩
    · exact absurd h (Bool.eq_false_iff.1 hlive)
    · exact absurd h (Bool.eq_false_iff.1 (not_halted_of_takes_command ht))
    · exact absurd h (Bool.eq_false_iff.1 (not_halted_of_takes_command ht))

/-- The status bits WARN and FATAL set in `p` are set in `q` (R17). -/
def StatusBitsKept (p q : Word) : Prop :=
  (pstatWarn p = true → pstatWarn q = true) ∧ (pstatFatal p = true → pstatFatal q = true)

theorem StatusBitsKept.refl (p : Word) : StatusBitsKept p p := ⟨id, id⟩

/-- A warning keeps the bits set: it leaves FATAL as it was (R200). -/
theorem statusBitsKept_afterWarning (p : Word) : StatusBitsKept p (pstatAfterWarning p) := by simp [StatusBitsKept]

/-- A fatal fault keeps the bits set: it leaves WARN as it was (R201). -/
theorem statusBitsKept_afterFatal (p : Word) (c : Cause) : StatusBitsKept p (pstatAfterFatal p c) := by
  simp [StatusBitsKept]

/-- No command clears a status bit. -/
theorem exec_keeps_statusBits {i : Instr} {s t : State} (h : exec i s = .next t) : StatusBitsKept s.pstat t.pstat := by
  rcases exec_next h with ⟨c, _, _, rfl⟩ | ⟨_, v, rfl⟩
  · exact statusBitsKept_afterFatal _ c
  · rw [State.complete_pstat]
    split
    · exact statusBitsKept_afterWarning _
    · exact .refl _

/-- Settles O13: every action but reset keeps the bits, and reset gives 0. -/
theorem statusBitsAreSticky : Obligations.StatusBitsAreSticky := by
  intro s t hstep
  rcases step_next hstep with ⟨rest, ht, rfl⟩ | ⟨_, _, _, _, _, _, rfl⟩ | ⟨_, _, _, _, _, rfl⟩ | ⟨_, _, _, _, _, h⟩
  · exact .inr ⟨rfl, rest, ht⟩
  · exact .inl (StatusBitsKept.refl _)
  · exact .inl (statusBitsKept_afterFatal _ _)
  · have hkept : StatusBitsKept (s.accept _ _).pstat t.pstat := exec_keeps_statusBits h
    exact .inl hkept

/-- Two commits of one row agree in a lane where the rows before and the staged values agree. -/
theorem RegFile.read_commitRow_congr {f f' : RegFile} {g g' : Lane → Word} {r r' : Nat} {ls : List Lane} {l : Lane}
    (hf : f'.read r' l = f.read r' l) (hg : g' l = g l) :
    (f'.commitRow r ls g').read r' l = (f.commitRow r ls g).read r' l := by
  simp only [RegFile.read_commitRow, hf, hg]

/-- Two commits of a pair of rows agree in a lane where the rows before and the staged values agree. -/
theorem RegFile.read_commitPair_congr {f f' : RegFile} {g g' : Lane → Container} {r r' : Nat} {ls : List Lane}
    {l : Lane} (hf : f'.read r' l = f.read r' l) (hg : g' l = g l) :
    (f'.commitPair r ls g').read r' l = (f.commitPair r ls g).read r' l := by
  simp only [RegFile.read_commitPair, hf, hg]

/-- A command changes no register row in an inactive lane (R131). -/
theorem exec_read_of_inactive {i : Instr} {s t : State} (h : exec i s = .next t) {l : Lane} (hl : ¬ s.laneActive l)
    (r : Nat) : t.vr.read r l = s.vr.read r l := by
  have hm : l ∉ activeLanes s.inputs.exec := fun hm => hl ((mem_activeLanes _ _).1 hm)
  rcases exec_next_cases h with ⟨_, c, _, rfl⟩ | ⟨_, _, ⟨op, _, rfl⟩ | ⟨op, _, rfl⟩⟩
  · rfl
  · simp [RegFile.read_commitRow, hm]
  · simp [RegFile.read_commitPair, hm]

/-- A command from other register rows has the same outcome beside the rows, and the same rows in every lane in which
the rows before it agree: no lane reads another (R129). -/
theorem exec_with_vr {i : Instr} {s t : State} (h : exec i s = .next t) (v : RegFile) :
    ∃ w, exec i { s with vr := v } = .next { t with vr := w } ∧
      ∀ l, (∀ r, v.read r l = s.vr.read r l) → ∀ r, w.read r l = t.vr.read r l := by
  rcases exec_next_cases h with ⟨hh, c, hc, rfl⟩ | ⟨hh, hc, hop⟩
  · exact ⟨v, exec_of_fatalCause (s := { s with vr := v }) hh hc, fun _ hv => hv⟩
  · have hx : Executes i { s with vr := v } := (executes_iff i s).2 ⟨hh, hc⟩
    rcases hop with ⟨op, hop, rfl⟩ | ⟨op, hop, rfl⟩
    · refine ⟨_, (hop _).trans (drive32_executes hx _), fun l hv r => RegFile.read_commitRow_congr (hv r) ?_⟩
      have hsrc k : source32 (catalog i) i.fields { s with vr := v } k l = source32 (catalog i) i.fields s k l :=
        source32_congr rfl hv
      simp only [hsrc]
    · refine ⟨_, (hop _).trans (drive64_executes hx _), fun l hv r => RegFile.read_commitPair_congr (hv r) ?_⟩
      have hsrc k : source64 (catalog i) i.fields { s with vr := v } k l = source64 (catalog i) i.fields s k l :=
        source64_congr rfl hv
      simp only [hsrc]

/-- Settles O14: the commit skips an inactive lane, and an active lane depends on its own values only. -/
theorem inactiveLanesAreUntouchedAndUnseen : Obligations.InactiveLanesAreUntouchedAndUnseen := by
  refine ⟨fun i s t h r l hl => exec_read_of_inactive h hl r, fun i s s' t hs hactive h => ?_⟩
  obtain ⟨w, hw, hlanes⟩ := exec_with_vr h s'.vr
  rw [← hs] at hw
  exact ⟨_, hw, rfl, rfl, rfl, fun r l hl => hlanes l (fun r => hactive r l hl) r⟩

/-- A `PSTAT` of 0 is legal: no status, cause 0 (R17). -/
theorem pstatLegal_zero : PstatLegal 0#32 := by simp [PstatLegal, pstatReservedClear, pstatFatal, pstatWarn, pstatCause]

/-- The reset state meets the invariant. -/
theorem State.reset_inv : State.reset.Inv :=
  ⟨State.reset_vr_WF, fun _ hc => absurd hc List.not_mem_nil, by decide, pstatLegal_zero, rfl⟩

/-- Settles O8. -/
theorem resetStateMeetsTheInvariant : Obligations.ResetStateMeetsTheInvariant :=
  ⟨State.reset_inv, rfl, rfl, rfl, fun _ _ => rfl⟩

end Sys2Proof.Machine

/-! PROOFS. The command word (30_encoding.md): decoder and encoder are inverse to each other (R46, R48), the words that
are no command (R54, R55), the operands that cannot be (R56), and the fields a command ignores (R53). -/

namespace Sys2Proof.Machine

/-- The bits of a placed field: those of the field, `at0` places higher. -/
theorem getLsbD_placed {n : Nat} (v : BitVec n) (at0 k : Nat) :
    (placed v at0).getLsbD k = (decide (k < 64) && decide (at0 ≤ k) && v.getLsbD (k - at0)) := by
  unfold placed
  rw [BitVec.getLsbD_shiftLeft, BitVec.getLsbD_setWidth]
  by_cases hk : k < 64
  · rcases Nat.lt_or_ge k at0 with h | h <;>
      simp [hk, h, Nat.not_lt_of_ge, Nat.not_le_of_gt, show k - at0 < 64 by omega]
  · simp [hk]

/-- A placed field read at its own place is the field. -/
theorem extractLsb'_placed_same {n at0 : Nat} (v : BitVec n) (h : at0 + n ≤ 64) :
    (placed v at0).extractLsb' at0 n = v := by
  ext k hk
  have hlt : at0 + k < 64 := by omega
  rw [BitVec.getElem_extractLsb', getLsbD_placed]
  simp [hk, hlt]

/-- A placed field leaves every place apart from its own at 0. -/
theorem extractLsb'_placed_of_disjoint {n at0 m start : Nat} (v : BitVec n) (h : start + m ≤ at0 ∨ at0 + n ≤ start) :
    (placed v at0).extractLsb' start m = 0#m := by
  ext k hk
  simp only [BitVec.getElem_extractLsb', getLsbD_placed, BitVec.getElem_zero, Bool.and_eq_false_iff,
    decide_eq_false_iff_not]
  rcases h with h | h
  · left; right; omega
  · exact .inr (BitVec.getLsbD_of_ge _ _ (by omega))

/-- A part of a word placed where it was read has the word's bits there, and no others. -/
theorem getLsbD_placed_extractLsb' (w : CommandWord) (at0 n k : Nat) :
    (placed (w.extractLsb' at0 n) at0).getLsbD k = (decide (at0 ≤ k ∧ k < at0 + n) && w.getLsbD k) := by
  rw [getLsbD_placed, BitVec.getLsbD_extractLsb', Bool.eq_iff_iff]
  simp only [Bool.and_eq_true, decide_eq_true_eq]
  constructor
  · rintro ⟨⟨_, hle⟩, hlt, hbit⟩
    rw [Nat.add_sub_cancel' hle] at hbit
    exact ⟨⟨hle, by omega⟩, hbit⟩
  · rintro ⟨⟨hle, hlt⟩, hbit⟩
    exact ⟨⟨BitVec.lt_of_getLsbD hbit, hle⟩, by omega, by rwa [Nat.add_sub_cancel' hle]⟩

/-- One bit of a word as a field of width 1. -/
theorem ofBool_getLsbD (w : CommandWord) (k : Nat) : BitVec.ofBool (w.getLsbD k) = w.extractLsb' k 1 := by
  ext j hj
  obtain rfl : j = 0 := by omega
  simp

/-- The word of a command has its reserved bits 0 (R54). -/
theorem reservedSet_encodeFields (op : BitVec 8) (f : Fields) : reservedSet (encodeFields op f) = false := by
  simp [reservedSet, encodeFields, BitVec.extractLsb'_or, extractLsb'_placed_of_disjoint]

/-- Fields that fit their places are read back from them: no two places overlap (R46). -/
theorem fieldsOf_encodeFields (op : BitVec 8) {f : Fields} (h : f.wellFormed = true) :
    fieldsOf (encodeFields op f) = f := by
  simp only [Fields.wellFormed, rowFieldFits, Bool.and_eq_true, decide_eq_true_eq] at h
  obtain ⟨⟨⟨hvdst, hsrc0⟩, hsrc1⟩, hsrc2⟩ := h
  simp [fieldsOf, encodeFields, BitVec.extractLsb'_or, extractLsb'_placed_same, extractLsb'_placed_of_disjoint,
    getLsbD_placed, -BitVec.getLsbD_eq_getElem, Nat.mod_eq_of_lt, hvdst, hsrc0, hsrc1, hsrc2]

/-- The fields read from a word fit their places. -/
theorem fieldsOf_wellFormed (w : CommandWord) : (fieldsOf w).wellFormed = true := by
  have hfits (v : BitVec 8) : rowFieldFits v.toNat = true := decide_eq_true v.isLt
  simp only [Fields.wellFormed, fieldsOf, hfits, Bool.and_self]

/-- The reserved fields of a word that has no reserved bit set. -/
theorem reservedSet_eq_false_iff (w : CommandWord) :
    reservedSet w = false ↔ w.extractLsb' 22 2 = 0#2 ∧ w.extractLsb' 59 5 = 0#5 := by
  simp only [reservedSet, Bool.or_eq_false_iff, bne_eq_false_iff_eq]

/-- Bits 23:22 and 63:59 are 0 where no reserved bit is set. -/
theorem getLsbD_of_reserved {w : CommandWord} (h : reservedSet w = false) {k : Nat}
    (hk : 22 ≤ k ∧ k < 24 ∨ 59 ≤ k ∧ k < 64) : w.getLsbD k = false := by
  obtain ⟨hlow, hhigh⟩ := (reservedSet_eq_false_iff w).1 h
  rcases hk with hk | hk
  · have hbit := congrArg (BitVec.getLsbD · (k - 22)) hlow
    simpa [show k - 22 < 2 by omega, show 22 + (k - 22) = k by omega] using hbit
  · have hbit := congrArg (BitVec.getLsbD · (k - 59)) hhigh
    simpa [show k - 59 < 5 by omega, show 59 + (k - 59) = k by omega] using hbit

/-- A word without a reserved bit set is made of its opcode and its fields: the places of R46 cover the rest. -/
theorem encodeFields_fieldsOf {w : CommandWord} (h : reservedSet w = false) :
    encodeFields (w.extractLsb' 0 8) (fieldsOf w) = w := by
  apply BitVec.eq_of_getLsbD_eq
  intro k hk
  simp only [encodeFields, fieldsOf, BitVec.ofNat_toNat, BitVec.setWidth_eq, ofBool_getLsbD, BitVec.getLsbD_or,
    getLsbD_placed_extractLsb']
  cases hw : w.getLsbD k
  · simp
  · have hres : ¬ (22 ≤ k ∧ k < 24 ∨ 59 ≤ k ∧ k < 64) := fun hr => by simp [getLsbD_of_reserved h hr] at hw
    simp only [Bool.and_true, Bool.or_eq_true, decide_eq_true_eq]
    omega

/-- Every command has the opcode byte and the row of the opcode map that R48 gives it. -/
theorem opcodeByte_statement (i : Instr) : Laws.OpcodeByte.Statement i := by
  cases i <;> exact ⟨Laws.OpcodeByte.low_byte _ _, _, rfl, rfl⟩

/-- The opcode map gives an operation of that opcode, which keeps the fields it is given (R48). -/
theorem commandOfOp_some {op : BitVec 8} {mk : Fields → Instr} (h : commandOfOp op = some mk) (f : Fields) :
    opOf (mk f) = op ∧ (mk f).fields = f := by
  unfold commandOfOp at h
  split at h <;> cases h <;> exact ⟨rfl, rfl⟩

/-- No command of the catalog has an opcode that R55 calls unassigned. -/
theorem opUnassigned_opOf (i : Instr) : opUnassigned (opOf i).toNat = false := by
  cases i <;> rfl

/-- What it takes for a word to decode (R202 steps 1 and 2). -/
theorem decode_ok_iff {w : CommandWord} {i : Instr} : decode w = .ok i ↔
    reservedSet w = false ∧ ∃ mk, commandOfOp (w.extractLsb' 0 8) = some mk ∧ i = mk (fieldsOf w) := by
  unfold decode
  cases reservedSet w
  · cases commandOfOp (w.extractLsb' 0 8) <;> simp [eq_comm]
  · simp

/-- Settles O2: the opcode byte gives the operation back, and each field is read from its own place. -/
theorem decodeOfEncodeIsTheCommand : Obligations.DecodeOfEncodeIsTheCommand := by
  intro i h
  obtain ⟨hbyte, mk, hmk, hi⟩ := opcodeByte_statement i
  have hfields : fieldsOf (encode i) = i.fields := fieldsOf_encodeFields _ h
  exact decode_ok_iff.2 ⟨reservedSet_encodeFields _ _, mk, hbyte ▸ hmk, by rw [hfields, hi]⟩

/-- Settles O3: the opcode, the fields and the reserved zeros make up the whole word. -/
theorem encodeOfDecodeIsTheWord : Obligations.EncodeOfDecodeIsTheWord := by
  intro w i h
  obtain ⟨hres, mk, hmk, rfl⟩ := decode_ok_iff.1 h
  obtain ⟨hop, hf⟩ := commandOfOp_some hmk (fieldsOf w)
  constructor
  · rw [encode, hop, hf, encodeFields_fieldsOf hres]
  · rw [Instr.wellFormed, hf, fieldsOf_wellFormed]

/-- A word with a reserved bit set or an unassigned opcode does not decode (R54, R55). -/
theorem decode_of_illegal {w : CommandWord}
    (h : w.extractLsb' 22 2 ≠ 0#2 ∨ w.extractLsb' 59 5 ≠ 0#5 ∨ opUnassigned (w.extractLsb' 0 8).toNat = true) :
    ∃ e, decode w = .error e := by
  cases hd : decode w with
  | error e => exact ⟨e, rfl⟩
  | ok i =>
    obtain ⟨hres, mk, hmk, -⟩ := decode_ok_iff.1 hd
    obtain ⟨hlow, hhigh⟩ := (reservedSet_eq_false_iff w).1 hres
    obtain ⟨hop, -⟩ := commandOfOp_some hmk (fieldsOf w)
    rcases h with h | h | h
    · exact absurd hlow h
    · exact absurd hhigh h
    · rw [← hop, opUnassigned_opOf] at h
      cases h

/-- A block that is not halted takes the caller's next action (R37). -/
theorem toTake_of_not_halted {s : State} (h : s.halted = false) : s.toTake = s.pending := by
  simp [State.toTake, h]

/-- A step that takes a word that does not decode aborts it as an illegal command (R54, R55). -/
theorem step_of_decode_error {s : State} {c : Command} {rest : List CallerInput} {e : DecodeError}
    (ht : s.toTake = .command c :: rest) (hd : decode c.word = .error e) :
    step s = .next ((s.accept c.inputs rest).raiseFatal .illegalCommand) := by
  simp only [step, ht, hd]

/-- A step that takes a word of the catalog executes its command (R126). -/
theorem step_of_decode_ok {s : State} {c : Command} {rest : List CallerInput} {i : Instr}
    (ht : s.toTake = .command c :: rest) (hd : decode c.word = .ok i) :
    step s = exec i (s.accept c.inputs rest) := by
  simp only [step, ht, hd]

/-- A fatal fault halts the block (R201). -/
@[simp] theorem State.raiseFatal_halted (s : State) (c : Cause) : (s.raiseFatal c).halted = true :=
  pstatFatal_afterFatal _ _

/-- Settles O5: such a word does not decode, and the step raises the fatal fault. -/
theorem illegalWordIsFatal : Obligations.IllegalWordIsFatal := by
  intro s c rest hh hp hill
  obtain ⟨e, he⟩ := decode_of_illegal hill
  have ht : s.toTake = .command c :: rest := (toTake_of_not_halted hh).trans hp
  exact ⟨_, step_of_decode_error ht he, aborted_raiseFatal _ .illegalCommand⟩

/-- Settles O10: each of the three makes the operands illegal, the check that comes before that of UMOD. -/
theorem illegalOperandsAreFatal : Obligations.IllegalOperandsAreFatal := by
  intro i s hh hill
  have hnot : ¬ OperandsLegal i s := by
    rintro ⟨hacc, hsrc, hdst⟩
    rcases hill with ⟨k, hk, hu, hr⟩ | hr | ⟨f, rfl, hu⟩
    · exact absurd (hsrc k hk hu) (Nat.not_lt_of_ge hr)
    · exact absurd hdst (Nat.not_lt_of_ge hr)
    · exact Bool.eq_false_iff.1 (hacc rfl) hu
  exact ⟨_, exec_of_fatalCause hh (fatalCause_of_illegal hnot), State.raiseFatal_halted _ _,
    aborted_raiseFatal _ .illegalCommand⟩

/-- Settles O1, each word by evaluating the decoder. -/
theorem decodeReadsSpecWords : Obligations.DecodeReadsSpecWords := by
  refine ⟨?_, ?_, ?_, ?_, ?_⟩ <;> decide

/-- Settles O4: the block takes the command, and accepting it samples its inputs. -/
theorem stepRunsTheDecodedCommand : Obligations.StepRunsTheDecodedCommand := by
  intro s c rest i hh hp hd
  exact step_of_decode_ok ((toTake_of_not_halted hh).trans hp) hd

@[simp] theorem withFields_fields (i : Instr) : i.withFields i.fields = i := by cases i <;> rfl

theorem arity_pos (i : Instr) : 0 < (catalog i).arity := by cases i <;> exact Nat.succ_pos _

/-- The fields `g` agree with the command's in `CLAMP` and in the modifier bits, as far as it reads them (R53 a, f). -/
def ModesAgree (i : Instr) (g : Fields) : Prop :=
  (clampIgnored i = false → g.clamp = i.fields.clamp) ∧ ModifiersAgree i g

/-- `op` reads of its three sources only those below the arity `n` (R53 b). -/
def SourcesUsed {α : Type} (n : Nat) (op : α → α → α → α) : Prop :=
  ∀ src src' : Nat → α, (∀ k < n, src' k = src k) → op (src' 0) (src' 1) (src' 2) = op (src 0) (src 1) (src 2)

theorem sourcesUsed_one {α : Type} (op : α → α) : SourcesUsed 1 fun a _ _ => op a :=
  fun _ _ h => congrArg op (h 0 Nat.zero_lt_one)

theorem sourcesUsed_two {α : Type} (op : α → α → α) : SourcesUsed 2 fun a b _ => op a b :=
  fun _ _ h => congrArg₂ op (h 0 Nat.two_pos) (h 1 Nat.one_lt_two)

theorem sourcesUsed_three {α : Type} (op : α → α → α → α) : SourcesUsed 3 op := by
  intro src src' h
  rw [h 0 (by decide), h 1 (by decide), h 2 (by decide)]

/-- `op` is a per-lane function that reads of the fields and of its sources what R53 leaves the command. -/
def ReadsOnlyUsed {α : Type} (i : Instr) (op : Fields → α → α → α → α) : Prop :=
  (∀ g, ModesAgree i g → op g = op i.fields) ∧ ∀ f, SourcesUsed (catalog i).arity (op f)

/-- Such a function has one value for fields and sources that agree in what it reads. -/
theorem ReadsOnlyUsed.lane_eq {α : Type} {i : Instr} {op : Fields → α → α → α → α} (hop : ReadsOnlyUsed i op)
    {g : Fields} (hg : ModesAgree i g) {src src' : Nat → α} (h : ∀ k < (catalog i).arity, src' k = src k) :
    op g (src' 0) (src' 1) (src' 2) = op i.fields (src 0) (src 1) (src 2) := by
  obtain ⟨hmodes, hsources⟩ := hop
  rw [hmodes g hg]
  exact hsources _ _ _ h

/-- A command with a 32-bit result, with any fields, is the driver over one per-lane function of the fields it uses. -/
theorem exec_withFields_drive32 {i : Instr} (h : (catalog i).wide = false) :
    ∃ op : Fields → Word → Word → Word → Word,
      (∀ f s, exec (i.withFields f) s = drive32 (catalog i) f s (op f)) ∧ ReadsOnlyUsed i op := by
  cases i
  case pkFmaF32 | pkMulF32 | pkAddF32 | pkMovB32 => cases h
  all_goals apply Exists.intro
  case pkMadI16 | pkFmaF16 | dot2I32I16 | dot2U32U16 | dot4I32I8 | dot4U32U8 | dot8I32I4 | dot8U32U4 | dot2F32F16 =>
    refine ⟨fun f s => ?_, fun g hm => ?_, fun _ => ?_⟩
    · dsimp only [Instr.withFields, exec]; exact rfl
    · simp only [hm.1 rfl]
    · exact sourcesUsed_three _
  case pkAddI16 | pkSubI16 | pkAddU16 | pkSubU16 | pkMinI16 | pkMaxI16 | pkMinU16 | pkMaxU16 | pkAddF16 | pkMulF16
      | pkMinF16 | pkMaxF16 =>
    refine ⟨fun f s => ?_, fun g hm => ?_, fun _ => ?_⟩
    · dsimp only [Instr.withFields, exec]; exact rfl
    · simp only [hm.1 rfl]
    · exact sourcesUsed_two _
  case pkMulLoU16 | pkLshlrevB16 | pkLshrrevB16 | pkAshrrevI16 =>
    refine ⟨fun f s => ?_, fun g _ => ?_, fun _ => ?_⟩
    · dsimp only [Instr.withFields, exec]; exact rfl
    · rfl
    · exact sourcesUsed_two _
  case accRead | accWrite =>
    refine ⟨fun f s => ?_, fun g _ => ?_, fun _ => ?_⟩
    · dsimp only [Instr.withFields, exec]; exact rfl
    · rfl
    · exact sourcesUsed_one _

/-- A dual-float command, with any fields, is the driver over one per-lane function of the fields it uses, for given
parameters of the block (R173 reads one). -/
theorem exec_withFields_drive64 {i : Instr} (h : (catalog i).wide = true) (p : Config.Params) :
    ∃ op : Fields → Container → Container → Container → Container,
      (∀ f s, s.params = p → exec (i.withFields f) s = drive64 (catalog i) f s (op f)) ∧ ReadsOnlyUsed i op := by
  cases i
  case pkFmaF32 =>
    refine ⟨dualFloat3 fpFma32 p.pkfmaNegBit0Only, fun f s hp => hp ▸ rfl, fun g hm => ?_, fun _ => ?_⟩
    · obtain ⟨hsel, hselHi, hneg, hnegHi⟩ := hm.2
      funext
      simp only [dualFloat3, hsel, hselHi, hneg, hnegHi, Instr.fields]
    · exact sourcesUsed_three _
  case pkMulF32 | pkAddF32 =>
    apply Exists.intro
    refine ⟨fun f s _ => ?_, fun g hm => ?_, fun _ => ?_⟩
    · dsimp only [Instr.withFields, exec]; exact rfl
    · have hbit0 := hm.2 0 Nat.two_pos
      have hbit1 := hm.2 1 Nat.one_lt_two
      simp only [dualFloat2, hbit0, hbit1]
    · exact sourcesUsed_two _
  case pkMovB32 =>
    apply Exists.intro
    refine ⟨fun f s _ => ?_, fun g hm => ?_, fun _ => ?_⟩
    · dsimp only [Instr.withFields, exec]; exact rfl
    · obtain ⟨hsel, hselHi, -⟩ := hm.2
      simp only [hsel, hselHi]
    · exact sourcesUsed_two _
  all_goals cases h

section AgreeOnUsed

variable {i : Instr} {g : Fields} {s : State} {q : Inputs}

theorem AgreeOnUsed.modesAgree {p : Inputs} (h : AgreeOnUsed i g p q) : ModesAgree i g := by
  obtain ⟨hclamp, _, _, _, _, _, hmod⟩ := h
  exact ⟨hclamp, hmod⟩

theorem AgreeOnUsed.exec_eq {p : Inputs} (h : AgreeOnUsed i g p q) : q.exec = p.exec := by
  obtain ⟨_, _, _, _, _, hexec, _⟩ := h
  exact hexec

theorem AgreeOnUsed.srcUniform_eq {p : Inputs} (h : AgreeOnUsed i g p q) {k : Nat} (hk : k < (catalog i).arity) :
    srcUniform g k = srcUniform i.fields k := by
  obtain ⟨_, _, _, hsrc, _, _, _⟩ := h
  exact (hsrc k hk).1

/-- The destination is the same row: `ACC_OFFSET` counts for `ACC_WRITE` only (R53 e). -/
theorem AgreeOnUsed.destRow_eq (h : AgreeOnUsed i g s.inputs q) :
    destRow (catalog i) g { s with inputs := q } = destRow (catalog i) i.fields s := by
  obtain ⟨_, _, hvdst, _, hacc, _, _⟩ := h
  unfold destRow
  rw [hvdst]
  split
  next hc => rw [hacc (.inr hc)]
  next => rfl

/-- A register source is the same row: `ACC_OFFSET` counts for `ACC_READ` only (R53 e). -/
theorem AgreeOnUsed.sourceRow_eq (h : AgreeOnUsed i g s.inputs q) {k : Nat} (hk : k < (catalog i).arity)
    (hu : srcUniform i.fields k = false) :
    sourceRow (catalog i) g { s with inputs := q } k = sourceRow (catalog i) i.fields s k := by
  obtain ⟨_, _, _, hsrc, hacc, _, _⟩ := h
  obtain ⟨_, hfield, _⟩ := hsrc k hk
  unfold sourceRow
  rw [hfield hu]
  split
  next hc => rw [hacc (.inl (Bool.and_eq_true_iff.1 hc).1)]
  next => rfl

theorem AgreeOnUsed.sourceOutOfRange_eq (h : AgreeOnUsed i g s.inputs q) (k : Nat) :
    sourceOutOfRange (catalog i) g { s with inputs := q } k = sourceOutOfRange (catalog i) i.fields s k := by
  unfold sourceOutOfRange
  by_cases hk : k < (catalog i).arity
  · rw [h.srcUniform_eq hk]
    cases hu : srcUniform i.fields k
    · rw [h.sourceRow_eq hk hu]
    · simp
  · simp [hk]

/-- The checks of R202 answer the same. -/
theorem AgreeOnUsed.fatalCause_eq (h : AgreeOnUsed i g s.inputs q) :
    fatalCause (catalog i) g { s with inputs := q } = fatalCause (catalog i) i.fields s := by
  have hu0 : g.u0 = i.fields.u0 := h.srcUniform_eq (arity_pos i)
  have hrows : rowOutOfRange (catalog i) g { s with inputs := q } = rowOutOfRange (catalog i) i.fields s := by
    simp only [rowOutOfRange, h.sourceOutOfRange_eq, destOutOfRange, h.destRow_eq]
  have humod : g.umod = i.fields.umod := by
    obtain ⟨_, humod, _⟩ := h
    exact humod
  simp only [fatalCause, hu0, hrows, humod]

/-- The warning is the same: where the sign flips have no meaning, only whether one is set counts (R197). -/
theorem warns_eq_of_modifiersAgree (h : ModifiersAgree i g) : warns (catalog i) g = warns (catalog i) i.fields := by
  have hset : (catalog i).signFlips = false →
      ((g.neg ≠ 0#3 ∨ g.negHi ≠ 0#3) ↔ (i.fields.neg ≠ 0#3 ∨ i.fields.negHi ≠ 0#3)) := by
    intro hf
    cases i
    case pkFmaF32 | pkMulF32 | pkAddF32 => cases hf
    case pkMovB32 =>
      obtain ⟨_, _, hiff⟩ := h
      exact hiff
    all_goals exact h
  unfold warns
  cases hf : (catalog i).signFlips
  · rw [Bool.eq_iff_iff]
    simp only [Bool.not_false, Bool.true_and, Bool.or_eq_true, bne_iff_ne]
    exact hset hf
  · rfl

/-- A 32-bit source has the same value: `SRCk` of a uniform source and `UVALk` of a register are not read (R53 c, d). -/
theorem AgreeOnUsed.source32_eq (h : AgreeOnUsed i g s.inputs q) {k : Nat} (hk : k < (catalog i).arity) (l : Lane) :
    source32 (catalog i) g { s with inputs := q } k l = source32 (catalog i) i.fields s k l := by
  unfold source32
  rw [h.srcUniform_eq hk]
  cases hu : srcUniform i.fields k
  · simp [h.sourceRow_eq hk hu]
  · obtain ⟨_, _, _, hsrc, _, _, _⟩ := h
    obtain ⟨_, _, huval⟩ := hsrc k hk
    simp [(huval hu).1]

/-- A 64-bit source has the same value (R53 c, d). -/
theorem AgreeOnUsed.source64_eq (h : AgreeOnUsed i g s.inputs q) (hw : (catalog i).wide = true) {k : Nat}
    (hk : k < (catalog i).arity) (l : Lane) :
    source64 (catalog i) g { s with inputs := q } k l = source64 (catalog i) i.fields s k l := by
  unfold source64
  rw [h.srcUniform_eq hk]
  cases hu : srcUniform i.fields k
  · simp [h.sourceRow_eq hk hu]
  · obtain ⟨_, _, _, hsrc, _, _, _⟩ := h
    obtain ⟨_, _, huval⟩ := hsrc k hk
    simp [(huval hu).2 hw]

/-- Over the same committed rows the command has the same outcome. -/
theorem AgreeOnUsed.runCommand_eq (h : AgreeOnUsed i g s.inputs q) {t : State} {v : RegFile}
    (hrun : runCommand (catalog i) i.fields s v = .next t) :
    runCommand (catalog i) g { s with inputs := q } v = .next { t with inputs := q } := by
  have hwarns := warns_eq_of_modifiersAgree h.modesAgree.2
  obtain ⟨hh, hcases⟩ := runCommand_next hrun
  have hh' : ({ s with inputs := q } : State).halted = false := hh
  rcases hcases with ⟨c, hc, rfl⟩ | ⟨hc, rfl⟩ <;>
    simp only [runCommand, hh', h.fatalCause_eq, hc, hwarns] <;> rfl

end AgreeOnUsed

/-- Settles O18: the checks, the warning, the destination and, in every lane, the result are the same. -/
theorem ignoredFieldsHaveNoEffect : Obligations.IgnoredFieldsHaveNoEffect := by
  intro i g s t q h hexec
  rw [← withFields_fields i] at hexec
  cases hw : (catalog i).wide
  · obtain ⟨op, hdrive, hop⟩ := exec_withFields_drive32 hw
    rw [hdrive] at hexec ⊢
    have hlane l := hop.lane_eq h.modesAgree (fun _ hk => h.source32_eq hk l)
    simp only [drive32, h.destRow_eq, h.exec_eq, hlane]
    exact h.runCommand_eq hexec
  · obtain ⟨op, hdrive, hop⟩ := exec_withFields_drive64 hw s.params
    rw [hdrive _ _ rfl] at hexec
    rw [hdrive g { s with inputs := q } rfl]
    have hlane l := hop.lane_eq h.modesAgree (fun _ hk => h.source64_eq hw hk l)
    simp only [drive64, h.destRow_eq, h.exec_eq, hlane]
    exact h.runCommand_eq hexec

end Sys2Proof.Machine

/-! PROOFS. The saturation library (40_saturation.md): the integer clamps (R70 to R73, R77) and the two unit clamps of
floating-point patterns (R75, R76). -/

namespace Sys2Proof.Machine

/-- Signed saturation is the nearest value of the range (R70). -/
theorem satS_eq_max_min (n : Nat) (z : Int) : satS n z = max (-(2 ^ (n - 1))) (min (2 ^ (n - 1) - 1) z) := by
  have hpos : (0 : Int) < 2 ^ (n - 1) := by positivity
  unfold satS
  split_ifs <;> omega

/-- Unsigned saturation is the nearest value of the range (R71). -/
theorem satU_eq_max_min (n : Nat) (z : Int) : satU n z = max 0 (min (2 ^ n - 1) z) := by
  have hpos : (0 : Int) < 2 ^ n := by positivity
  unfold satU
  split_ifs <;> omega

theorem satS_mem (n : Nat) (z : Int) : -(2 ^ (n - 1)) ≤ satS n z ∧ satS n z ≤ 2 ^ (n - 1) - 1 := by
  have hpos : (0 : Int) < 2 ^ (n - 1) := by positivity
  rw [satS_eq_max_min]
  omega

theorem satU_mem (n : Nat) (z : Int) : 0 ≤ satU n z ∧ satU n z ≤ 2 ^ n - 1 := by
  have hpos : (0 : Int) < 2 ^ n := by positivity
  rw [satU_eq_max_min]
  omega

theorem satS_of_mem {n : Nat} {z : Int} (hlo : -(2 ^ (n - 1)) ≤ z) (hhi : z ≤ 2 ^ (n - 1) - 1) : satS n z = z := by
  rw [satS_eq_max_min, min_eq_right hhi, max_eq_right hlo]

theorem satU_of_mem {n : Nat} {z : Int} (hlo : 0 ≤ z) (hhi : z ≤ 2 ^ n - 1) : satU n z = z := by
  rw [satU_eq_max_min, min_eq_right hhi, max_eq_right hlo]

/-- The low bits of a value, read unsigned, are the value modulo `2 ^ n` (R7). -/
theorem trunc_toNat (n : Nat) (z : Int) : ((trunc n z).toNat : Int) = z % 2 ^ n := by
  have hmod : 0 ≤ z % 2 ^ n := Int.emod_nonneg z (by positivity)
  simpa [trunc, BitVec.toNat_ofInt] using hmod

/-- A value of the signed range is read back from its low bits. -/
theorem trunc_toInt_of_mem {n : Nat} (hn : 1 ≤ n) {z : Int} (hlo : -(2 ^ (n - 1)) ≤ z) (hhi : z ≤ 2 ^ (n - 1) - 1) :
    (trunc n z).toInt = z :=
  BitVec.toInt_ofInt_eq_self hn hlo (Int.lt_of_le_sub_one hhi)

/-- A value of the unsigned range is read back from its low bits. -/
theorem trunc_toNat_of_mem {n : Nat} {z : Int} (hlo : 0 ≤ z) (hhi : z ≤ 2 ^ n - 1) :
    ((trunc n z).toNat : Int) = z := by
  rw [trunc_toNat, Int.emod_eq_of_lt hlo (Int.lt_of_le_sub_one hhi)]

/-- The signed clamp with the flag (R72). -/
theorem clampS_true_toInt {n : Nat} (hn : 1 ≤ n) (z : Int) : (clampS n z true).toInt = satS n z :=
  trunc_toInt_of_mem hn (satS_mem n z).1 (satS_mem n z).2

/-- The unsigned clamp with the flag (R73). -/
theorem clampU_true_toNat (n : Nat) (z : Int) : ((clampU n z true).toNat : Int) = satU n z :=
  trunc_toNat_of_mem (satU_mem n z).1 (satU_mem n z).2

/-- A value of the signed range passes the clamp with either flag (R77). -/
theorem clampS_toInt_of_mem {n : Nat} (hn : 1 ≤ n) {z : Int} (hlo : -(2 ^ (n - 1)) ≤ z) (hhi : z ≤ 2 ^ (n - 1) - 1)
    (c : Bool) : (clampS n z c).toInt = z := by
  cases c
  · exact trunc_toInt_of_mem hn hlo hhi
  · rw [clampS_true_toInt hn, satS_of_mem hlo hhi]

/-- A value of the unsigned range passes the clamp with either flag (R77). -/
theorem clampU_toNat_of_mem {n : Nat} {z : Int} (hlo : 0 ≤ z) (hhi : z ≤ 2 ^ n - 1) (c : Bool) :
    ((clampU n z c).toNat : Int) = z := by
  cases c
  · exact trunc_toNat_of_mem hlo hhi
  · rw [clampU_true_toNat, satU_of_mem hlo hhi]

/-- Settles O23: a saturated value lies in the range, so its low bits read as it does; without the flag only the low
bits are taken. -/
theorem clampsSaturateOrTruncate : Obligations.ClampsSaturateOrTruncate := fun N z hN =>
  ⟨satS_eq_max_min N z, satU_eq_max_min N z, clampS_true_toInt hN z, clampU_true_toNat N z,
    clampS_toInt_of_mem hN, clampU_toNat_of_mem, trunc_toNat N z, trunc_toNat N z⟩

/-! The order of the non-NaN patterns (R90): below the sign weight it is that of the patterns, from there on reversed. -/

section Patterns

variable {F : FloatFormat} {p : Nat}

theorem isNaN_of_le_infPattern (h : p ≤ infPattern F) : isNaN F p = false := by
  have hlt := infPattern_lt F
  simpa [isNaN, magnitude, Nat.mod_eq_of_lt (Nat.lt_of_le_of_lt h hlt)] using h

theorem orderKey_of_lt_signWeight (h : p < signWeight F) : orderKey F p = p := by
  have hdouble : p < 2 * signWeight F := by omega
  simp [orderKey, isNegative, magnitude, Nat.mod_eq_of_lt h, Nat.mod_eq_of_lt hdouble, h]

/-- A non-zero pattern with the sign bit, up to `-inf`, is no NaN and lies below the zeros. -/
theorem negative_of_le_negInf (hlo : signWeight F < p) (hhi : p ≤ signWeight F + infPattern F) :
    isNaN F p = false ∧ orderKey F p < 0 := by
  have hinf := infPattern_lt F
  obtain ⟨m, rfl⟩ := Nat.exists_eq_add_of_lt hlo
  have hm : m + 1 < signWeight F := by omega
  have hpack : signWeight F + m + 1 = pack F true (m + 1) := rfl
  rw [hpack]
  simp only [isNaN, orderKey, isNegative_pack F true hm, magnitude_pack F true hm, decide_eq_false_iff_not, if_true]
  omega

end Patterns

/-! The single-precision unit clamp, an equation for each answer of its comparisons (R75). -/

@[simp] theorem uclamp32_false (x : Word) : uclamp32 x false = x := rfl

theorem uclamp32_of_isNaN {x : Word} (h : isNaN binary32 x.toNat = true) : uclamp32 x true = x := by
  simp [uclamp32, h]

theorem uclamp32_of_negative {x : Word} (hx : isNaN binary32 x.toNat = false) (h : orderKey binary32 x.toNat < 0) :
    uclamp32 x true = 0#32 := by
  simp [uclamp32, hx, h]

theorem orderKey_one32 : orderKey binary32 one32.toNat = 0x3F800000 := by decide

theorem uclamp32_of_one_lt {x : Word} (hx : isNaN binary32 x.toNat = false)
    (h : 0x3F800000 < orderKey binary32 x.toNat) : uclamp32 x true = one32 := by
  have hneg : ¬ orderKey binary32 x.toNat < 0 := by omega
  simp [uclamp32, hx, hneg, orderKey_one32, h]

theorem uclamp32_of_mem_unit {x : Word} (hlo : 0 ≤ orderKey binary32 x.toNat)
    (hhi : orderKey binary32 x.toNat ≤ 0x3F800000) : uclamp32 x true = x := by
  simp [uclamp32, orderKey_one32, Int.not_lt.2 hlo, Int.not_lt.2 hhi]

theorem signWeight_binary32 : signWeight binary32 = 2 ^ 31 := rfl

theorem infPattern_binary32 : infPattern binary32 = 0x7F800000 := rfl

/-- A pattern without the sign bit is its own place in the order of binary32. -/
theorem orderKey_of_le_posInf32 {p : Nat} (h : p ≤ 0x7F800000) : orderKey binary32 p = p :=
  orderKey_of_lt_signWeight (by rw [signWeight_binary32]; omega)

/-- Settles O24: each range of patterns is one answer of the NaN test and the two comparisons. -/
theorem unitClamp32IsTwoOrderedComparisons : Obligations.UnitClamp32IsTwoOrderedComparisons := by
  refine ⟨uclamp32_false, fun x hnan => ?nan, ?negZero, fun x hle => ?unit, fun x hlo hhi => ?negative,
    fun x hlo hhi => ?aboveOne⟩
  case nan => exact uclamp32_of_isNaN (decide_eq_true hnan)
  case negZero => exact uclamp32_of_mem_unit (by decide) (by decide)
  case unit =>
    have hkey := orderKey_of_le_posInf32 (p := x.toNat) (by omega)
    exact uclamp32_of_mem_unit (by omega) (by omega)
  case negative =>
    obtain ⟨hx, hkey⟩ := negative_of_le_negInf (F := binary32) (p := x.toNat)
      (by rwa [signWeight_binary32]) (by rwa [signWeight_binary32, infPattern_binary32])
    exact uclamp32_of_negative hx hkey
  case aboveOne =>
    have hkey := orderKey_of_le_posInf32 hhi
    exact uclamp32_of_one_lt (isNaN_of_le_infPattern (by rwa [infPattern_binary32])) (by omega)

/-! The half-precision minimum and maximum, an equation for each answer of their comparison (R97). -/

section MinMax16

variable {a b : Half}

theorem fpMin16_self (ha : isNaN binary16 a.toNat = false) : fpMin16 a a = a := by simp [fpMin16, ha]

theorem fpMax16_self (ha : isNaN binary16 a.toNat = false) : fpMax16 a a = a := by simp [fpMax16, ha]

variable (ha : isNaN binary16 a.toNat = false) (hb : isNaN binary16 b.toNat = false)
include ha hb

theorem fpMin16_of_lt (h : orderKey binary16 a.toNat < orderKey binary16 b.toNat) : fpMin16 a b = a := by
  simp [fpMin16, ha, hb, h]

theorem fpMin16_of_gt (h : orderKey binary16 b.toNat < orderKey binary16 a.toNat) : fpMin16 a b = b := by
  simp [fpMin16, ha, hb, h, Int.not_lt.2 (Int.le_of_lt h)]

theorem fpMax16_of_gt (h : orderKey binary16 b.toNat < orderKey binary16 a.toNat) : fpMax16 a b = a := by
  simp [fpMax16, ha, hb, h]

theorem fpMax16_of_lt (h : orderKey binary16 a.toNat < orderKey binary16 b.toNat) : fpMax16 a b = b := by
  simp [fpMax16, ha, hb, h, Int.not_lt.2 (Int.le_of_lt h)]

/-- Different patterns of one value have a maximum that is a zero of free sign (R97 i, log 12). -/
theorem fpMax16_of_ne (h : orderKey binary16 a.toNat = orderKey binary16 b.toNat) (hne : a ≠ b) :
    fpMax16 a b = zero16 (Config.maxZeroIsNegative a b) := by
  simp [fpMax16, ha, hb, h, hne]

end MinMax16

/-! The half-precision unit clamp: minimum with 1.0, then maximum with +0.0 (R76). -/

theorem hclamp16_true (x : Half) : hclamp16 x true = fpMax16 (fpMin16 x one16) 0x0000#16 := rfl

theorem signWeight_binary16 : signWeight binary16 = 2 ^ 15 := rfl

theorem infPattern_binary16 : infPattern binary16 = 0x7C00 := rfl

theorem orderKey_one16 : orderKey binary16 one16.toNat = 0x3C00 := by decide

theorem isNaN_one16 : isNaN binary16 one16.toNat = false := by decide

theorem orderKey_posZero16 : orderKey binary16 (0x0000#16).toNat = 0 := by decide

theorem isNaN_posZero16 : isNaN binary16 (0x0000#16).toNat = false := by decide

/-- Up to `+inf` a pattern is no NaN and its own place in the order of binary16. -/
theorem nonnegative_of_le_posInf16 {x : Half} (h : x.toNat ≤ 0x7C00) :
    isNaN binary16 x.toNat = false ∧ orderKey binary16 x.toNat = x.toNat :=
  ⟨isNaN_of_le_infPattern (by rwa [infPattern_binary16]),
    orderKey_of_lt_signWeight (by rw [signWeight_binary16]; omega)⟩

section UnitClamp16

variable {x : Half} (hx : isNaN binary16 x.toNat = false)
include hx

theorem hclamp16_of_one_lt (h : 0x3C00 < orderKey binary16 x.toNat) : hclamp16 x true = one16 := by
  rw [hclamp16_true, fpMin16_of_gt hx isNaN_one16 (by rwa [orderKey_one16])]
  exact fpMax16_of_gt isNaN_one16 isNaN_posZero16 (by decide)

/-- Below 1.0 the minimum is the operand. -/
theorem hclamp16_of_lt_one (h : orderKey binary16 x.toNat < 0x3C00) : hclamp16 x true = fpMax16 x 0x0000#16 := by
  rw [hclamp16_true, fpMin16_of_lt hx isNaN_one16 (by rwa [orderKey_one16])]

theorem hclamp16_of_negative (h : orderKey binary16 x.toNat < 0) : hclamp16 x true = 0x0000#16 := by
  rw [hclamp16_of_lt_one hx (by omega)]
  exact fpMax16_of_lt hx isNaN_posZero16 (by rwa [orderKey_posZero16])

theorem hclamp16_of_pos_of_lt_one (hlo : 0 < orderKey binary16 x.toNat) (hhi : orderKey binary16 x.toNat < 0x3C00) :
    hclamp16 x true = x := by
  rw [hclamp16_of_lt_one hx hhi]
  exact fpMax16_of_gt hx isNaN_posZero16 (by rwa [orderKey_posZero16])

end UnitClamp16

theorem hclamp16_one : hclamp16 one16 true = one16 := by
  rw [hclamp16_true, fpMin16_self isNaN_one16]
  exact fpMax16_of_gt isNaN_one16 isNaN_posZero16 (by decide)

theorem hclamp16_posZero : hclamp16 0x0000#16 true = 0x0000#16 := by
  rw [hclamp16_of_lt_one isNaN_posZero16 (by decide), fpMax16_self isNaN_posZero16]

/-- The maximum of `-0.0` and `+0.0` is a zero of free sign (R97 i). -/
theorem hclamp16_negZero :
    hclamp16 0x8000#16 true = zero16 (Config.maxZeroIsNegative 0x8000#16 0x0000#16) := by
  have hnan : isNaN binary16 (0x8000#16).toNat = false := by decide
  rw [hclamp16_of_lt_one hnan (by decide)]
  exact fpMax16_of_ne hnan isNaN_posZero16 (by decide) (by decide)

/-- Every pattern of [+0.0, 1.0] passes: inside by the order, at the ends because both operands are equal there. -/
theorem hclamp16_of_le_one {x : Half} (h : x.toNat ≤ 0x3C00) : hclamp16 x true = x := by
  obtain ⟨hx, hkey⟩ := nonnegative_of_le_posInf16 (x := x) (by omega)
  rcases Nat.eq_zero_or_pos x.toNat with hzero | hpos
  · obtain rfl : x = 0x0000#16 := BitVec.eq_of_toNat_eq hzero
    exact hclamp16_posZero
  rcases Nat.eq_or_lt_of_le h with hone | hlt
  · obtain rfl : x = one16 := BitVec.eq_of_toNat_eq hone
    exact hclamp16_one
  exact hclamp16_of_pos_of_lt_one hx (by omega) (by omega)

/-- Settles O25: each range of patterns has one place in the order with 1.0 and with +0.0. -/
theorem halfClampIsMinThenMax : Obligations.HalfClampIsMinThenMax := by
  refine ⟨fun x => ⟨rfl, hclamp16_true x⟩, fun x hlo hhi => ?aboveOne, fun x hlo hhi => ?negative,
    fun x => hclamp16_of_le_one, ?negZero⟩
  case aboveOne =>
    obtain ⟨hx, hkey⟩ := nonnegative_of_le_posInf16 hhi
    exact hclamp16_of_one_lt hx (by omega)
  case negative =>
    obtain ⟨hx, hkey⟩ := negative_of_le_negInf (F := binary16) (p := x.toNat)
      (by rwa [signWeight_binary16]) (by rwa [signWeight_binary16, infPattern_binary16])
    exact hclamp16_of_negative hx hkey
  case negZero =>
    rw [hclamp16_negZero]
    cases Config.maxZeroIsNegative 0x8000#16 0x0000#16
    · exact .inl rfl
    · exact .inr rfl

end Sys2Proof.Machine

/-! PROOFS. The packed-field codec (41_codec.md): what one field of joined fields is, and that `split` and `join` are
inverse to each other (R84). -/

namespace Sys2Proof.Machine

section Codec
variable {w W : Nat}

@[simp] theorem length_split (v : BitVec W) (w : Nat) : (split v w).length = W / w := by
  simp [split]

/-- Field `i` of a split value is its bits `i * w` to `i * w + w - 1` (R81). -/
@[simp] theorem getElem_split (v : BitVec W) (w : Nat) {i : Nat} (h : i < (split v w).length) :
    (split v w)[i] = v.extractLsb' (i * w) w := by
  simp [split]

/-- A field that `split` gives lies within the value. -/
theorem field_within {i : Nat} (h : i < W / w) : i * w + w ≤ W :=
  calc i * w + w = (i + 1) * w := (Nat.succ_mul i w).symm
    _ ≤ W / w * w := Nat.mul_le_mul_right w h
    _ ≤ W := Nat.div_mul_le_self W w

/-- The low `w` bits of joined fields are the first field (R83). -/
theorem getLsbD_join_cons_of_lt (g : BitVec w) (gs : List (BitVec w)) {k : Nat} (hkW : k < W) (hkw : k < w) :
    (join W (g :: gs)).getLsbD k = g.getLsbD k := by
  rw [join, BitVec.getLsbD_or, BitVec.getLsbD_shiftLeft, BitVec.getLsbD_setWidth]
  simp [hkW, hkw, -BitVec.getLsbD_eq_getElem]

/-- Above its low `w` bits, a value of joined fields is the rest of the fields joined (R83). -/
theorem getLsbD_join_cons_add (g : BitVec w) (gs : List (BitVec w)) {k : Nat} (h : w + k < W) :
    (join W (g :: gs)).getLsbD (w + k) = (join W gs).getLsbD k := by
  rw [join, BitVec.getLsbD_or, BitVec.getLsbD_shiftLeft, BitVec.getLsbD_setWidth]
  simp [h, -BitVec.getLsbD_eq_getElem]

/-- Field `i` of joined fields is the `i`-th of them (R83), by induction on the fields. -/
theorem extractLsb'_join (gs : List (BitVec w)) {i : Nat} (hi : i < gs.length) (hW : i * w + w ≤ W) :
    (join W gs).extractLsb' (i * w) w = gs[i] := by
  induction gs generalizing i with
  | nil => simp at hi
  | cons g gs ih =>
    apply BitVec.eq_of_getLsbD_eq
    intro k hk
    cases i with
    | zero =>
      have hkW : k < W := by omega
      simpa [BitVec.getLsbD_extractLsb', hk, -BitVec.getLsbD_eq_getElem] using
        getLsbD_join_cons_of_lt g gs hkW hk
    | succ i =>
      rw [Nat.succ_mul] at hW
      have hi' : i < gs.length := Nat.lt_of_succ_lt_succ hi
      have hfield := ih hi' (by omega)
      calc ((join W (g :: gs)).extractLsb' ((i + 1) * w) w).getLsbD k
          = (join W (g :: gs)).getLsbD (w + (i * w + k)) := by
            simp [BitVec.getLsbD_extractLsb', hk, Nat.succ_mul, Nat.add_comm, Nat.add_left_comm,
              -BitVec.getLsbD_eq_getElem]
        _ = (join W gs).getLsbD (i * w + k) := getLsbD_join_cons_add g gs (by omega)
        _ = ((join W gs).extractLsb' (i * w) w).getLsbD k := by
            simp [BitVec.getLsbD_extractLsb', hk, -BitVec.getLsbD_eq_getElem]
        _ = gs[i].getLsbD k := by rw [hfield]

/-- Splitting the join of as many fields as fit gives the fields. -/
theorem split_join (g : List (BitVec w)) (h : g.length = W / w) : split (join W g) w = g := by
  apply List.ext_getElem
  · rw [length_split, h]
  · intro i _ hi
    rw [getElem_split, extractLsb'_join g hi (field_within (h ▸ hi))]

/-- The fields determine the value: with a width that divides `W`, bit `k` is bit `k % w` of field `k / w`. -/
theorem split_injective (hw : 0 < w) (hdvd : w ∣ W) {u v : BitVec W} (h : split u w = split v w) : u = v := by
  apply BitVec.eq_of_getLsbD_eq
  intro k hk
  have hi : k / w < W / w := Nat.div_lt_div_of_lt_of_dvd hdvd hk
  have hbit : ∀ x : BitVec W, x.getLsbD k = (x.extractLsb' (k / w * w) w).getLsbD (k % w) := fun x => by
    rw [BitVec.getLsbD_extractLsb', Nat.div_add_mod']
    simp [Nat.mod_lt k hw]
  have hfield : u.extractLsb' (k / w * w) w = v.extractLsb' (k / w * w) w := by
    simpa [split, hi] using congrArg (·[k / w]?) h
  rw [hbit u, hbit v, hfield]

/-- Joining the split of a value gives the value: both split into the same fields. -/
theorem join_split (hw : 0 < w) (hdvd : w ∣ W) (v : BitVec W) : join W (split v w) = v :=
  split_injective hw hdvd (split_join (split v w) (length_split v w))

/-- Truncating the signed view of a field gives the field: the view changes no bit (R82). -/
theorem trunc_toInt_self (v : BitVec w) : trunc w v.toInt = v :=
  BitVec.ofInt_toInt

end Codec

/-- Settles O22: what R84 says holds for every field width of at least 1 that divides the register width. -/
theorem splitAndJoinAreInverse : Obligations.SplitAndJoinAreInverse := by
  intro W _ w hw hdvd
  have hpos : 0 < w := by
    simp only [List.mem_cons, List.not_mem_nil, or_false] at hw
    omega
  exact ⟨join_split hpos hdvd, split_join, trunc_toInt_self⟩

end Sys2Proof.Machine

/-! PROOFS. The half-precision minimum and maximum (42_fp_primitives.md R97): the model's order of the patterns is that of
sign and magnitude, and each place in it has its own answer. -/

namespace Sys2Proof.Machine

/-- The model orders the patterns of binary16 by sign and magnitude. -/
theorem orderKey_binary16 (a : Half) : orderKey binary16 a.toNat = signMagnitude16 a := by
  have hlt := a.isLt
  unfold signMagnitude16
  split_ifs with hpos
  · exact orderKey_of_lt_signWeight hpos
  · obtain ⟨m, hm⟩ : ∃ m, a.toNat = 2 ^ 15 + m := Nat.exists_eq_add_of_le (by omega)
    have hmlt : m < signWeight binary16 := by rw [signWeight_binary16]; omega
    have hpack : a.toNat = pack binary16 true m := hm
    rw [hpack, orderKey, isNegative_pack _ _ hmlt, magnitude_pack _ _ hmlt, ← hpack]
    simp only [if_true]
    omega

theorem isNaN_binary16_of_le {a : Half} (h : a.toNat % 2 ^ 15 ≤ 0x7C00) : isNaN binary16 a.toNat = false := by
  exact decide_eq_false (Nat.not_lt.2 h)

/-- Different patterns of one value have a minimum that is a zero of free sign (R97 i, log 12). -/
theorem fpMin16_of_ne {a b : Half} (ha : isNaN binary16 a.toNat = false) (hb : isNaN binary16 b.toNat = false)
    (h : orderKey binary16 a.toNat = orderKey binary16 b.toNat) (hne : a ≠ b) :
    fpMin16 a b = zero16 (Config.minZeroIsNegative a b) := by
  simp [fpMin16, ha, hb, h, hne]

theorem zero16_isZero (n : Bool) : (zero16 n).toNat % 2 ^ 15 = 0 := by
  cases n <;> decide

/-- A zero of either sign is the value 0. -/
theorem signMagnitude16_of_isZero {a : Half} (h : a.toNat % 2 ^ 15 = 0) : signMagnitude16 a = 0 := by
  have hlt := a.isLt
  unfold signMagnitude16
  split_ifs <;> omega

/-- Settles O26: the operands are unequal in the model's order, the same pattern, or zeros of opposite sign. -/
theorem minMax16SelectsAnOperand : Obligations.MinMax16SelectsAnOperand := by
  intro a b hale hble
  have ha := isNaN_binary16_of_le hale
  have hb := isNaN_binary16_of_le hble
  refine ⟨fun hlt => ?unequal, ?same, fun hza hzb => ?zeros⟩
  case unequal =>
    rw [← orderKey_binary16, ← orderKey_binary16] at hlt
    exact ⟨fpMin16_of_lt ha hb hlt, fpMin16_of_gt hb ha hlt, fpMax16_of_lt ha hb hlt, fpMax16_of_gt hb ha hlt⟩
  case same =>
    rintro rfl
    exact ⟨fpMin16_self ha, fpMax16_self ha⟩
  case zeros =>
    by_cases hab : a = b
    · subst hab
      rw [fpMin16_self ha, fpMax16_self ha]
      exact ⟨hza, hza⟩
    · have hkey : orderKey binary16 a.toNat = orderKey binary16 b.toNat := by
        rw [orderKey_binary16, orderKey_binary16, signMagnitude16_of_isZero hza, signMagnitude16_of_isZero hzb]
      rw [fpMin16_of_ne ha hb hkey hab, fpMax16_of_ne ha hb hkey hab]
      exact ⟨zero16_isZero _, zero16_isZero _⟩

end Sys2Proof.Machine

/-! PROOFS. The patterns of a floating-point format (42_fp_primitives.md R90): the fields of a pattern, its class and its
value, in the words of the statements and in those of the model. -/

namespace Sys2Proof.Machine

section Fields

variable (F : FloatFormat) (p : Nat)

theorem signWeight_pos : 0 < signWeight F := by
  unfold signWeight
  positivity

/-- The exponent field of a pattern, read off its magnitude. -/
theorem magnitude_div : magnitude F p / 2 ^ F.fracBits = p / 2 ^ F.fracBits % 2 ^ F.expBits := by
  rw [magnitude, signWeight, Nat.add_comm, Nat.pow_add, Nat.mod_mul_right_div_self]

/-- The fraction field of a pattern, read off its magnitude. -/
theorem magnitude_mod : magnitude F p % 2 ^ F.fracBits = p % 2 ^ F.fracBits := by
  rw [magnitude, signWeight, Nat.pow_add, Nat.mod_mul_left_mod]

theorem signBit_eq_isNegative : signBit F p = isNegative F p := by
  have hdiv : p % (2 * signWeight F) / signWeight F = p / signWeight F % 2 := by
    rw [Nat.mul_comm, Nat.mod_mul_right_div_self]
  have hle : signWeight F ≤ p % (2 * signWeight F) ↔ 1 ≤ p / signWeight F % 2 := by
    rw [← hdiv, Nat.le_div_iff_mul_le (signWeight_pos F), Nat.one_mul]
  unfold signBit isNegative
  rw [decide_eq_decide, hle]
  unfold signWeight
  omega

/-- The exponent field is all ones from infinity's magnitude on. -/
theorem exponent_eq_ones_iff :
    p / 2 ^ F.fracBits % 2 ^ F.expBits = 2 ^ F.expBits - 1 ↔ infPattern F ≤ magnitude F p := by
  have hpos : 0 < 2 ^ F.fracBits := by positivity
  have hlt : p / 2 ^ F.fracBits % 2 ^ F.expBits < 2 ^ F.expBits := Nat.mod_lt _ (by positivity)
  rw [infPattern, ← Nat.le_div_iff_mul_le hpos, magnitude_div]
  omega

theorem isFinite_iff : IsFinite F p ↔ magnitude F p < infPattern F := by
  rw [IsFinite, ne_eq, exponent_eq_ones_iff, not_le]

theorem isNaNPattern_iff : IsNaNPattern F p ↔ isNaN F p = true := by
  have hsplit := Nat.div_add_mod (magnitude F p) (2 ^ F.fracBits)
  rw [IsNaNPattern, isNaN, decide_eq_true_eq, exponent_eq_ones_iff, ← magnitude_mod]
  constructor
  · rintro ⟨hle, hmod⟩
    refine lt_of_le_of_ne hle fun heq => hmod ?_
    rw [← heq, infPattern, Nat.mul_mod_left]
  · intro hlt
    have hones := (exponent_eq_ones_iff F p).2 hlt.le
    rw [magnitude_div, hones, Nat.mul_comm] at hsplit
    refine ⟨hlt.le, fun hmod => ?_⟩
    rw [hmod] at hsplit
    unfold infPattern at hlt
    omega

end Fields

variable {F : FloatFormat}

theorem isNaN_of_isFinite {p : Nat} (h : IsFinite F p) : isNaN F p = false := by
  have := (isFinite_iff F p).1 h
  simp only [isNaN, decide_eq_false_iff_not]
  omega

theorem isInf_of_isFinite {p : Nat} (h : IsFinite F p) : isInf F p = false := by
  have := (isFinite_iff F p).1 h
  simp only [isInf, decide_eq_false_iff_not]
  omega

/-- The sign of a pattern, as a factor. -/
def signFactor (n : Bool) : Int := if n then -1 else 1

theorem abs_signFactor (n : Bool) : |signFactor n| = 1 := by cases n <;> rfl

theorem signFactor_bne (m n : Bool) : signFactor (m != n) = signFactor m * signFactor n := by
  cases m <;> cases n <;> rfl

theorem signedQuanta_eq (F : FloatFormat) (p : Nat) : signedQuanta F p = signFactor (isNegative F p) * quanta F p := by
  unfold signedQuanta signFactor
  split_ifs <;> simp

/-- The quanta of a magnitude, also of one beyond infinity's: there with an exponent field wider than the format's, as if
the exponent had no bound. -/
def magQuanta (F : FloatFormat) (m : Nat) : Nat :=
  if m / 2 ^ F.fracBits = 0 then m
  else (2 ^ F.fracBits + m % 2 ^ F.fracBits) * 2 ^ (m / 2 ^ F.fracBits - 1)

theorem quanta_eq (F : FloatFormat) (p : Nat) : quanta F p = magQuanta F (magnitude F p) := rfl

/-- The exponent bias is at least 1 where the exponent has two bits, and the quantum is that of the subnormals. -/
theorem exists_bias (hexp : 2 ≤ F.expBits) :
    ∃ b, 2 ^ (F.expBits - 1) = b + 2 ∧ quantumLog F = F.fracBits + b := by
  obtain ⟨b, hb⟩ : ∃ b, 2 ^ (F.expBits - 1) = b + 2 :=
    Nat.exists_eq_add_of_le' (Nat.le_self_pow (n := F.expBits - 1) (by omega) 2)
  refine ⟨b, hb, ?_⟩
  unfold quantumLog
  omega

/-- The value of a pattern is its signed number of quanta times the quantum. -/
theorem binaryValue_eq (hexp : 2 ≤ F.expBits) (p : Nat) :
    binaryValue F p = (signedQuanta F p : Rat) / 2 ^ quantumLog F := by
  obtain ⟨b, hbias, hlog⟩ := exists_bias (F := F) hexp
  have hbiasInt : (2 : Int) ^ (F.expBits - 1) - 1 = b + 1 := by
    rw [show (2 : Int) ^ (F.expBits - 1) = (2 ^ (F.expBits - 1) : Nat) by push_cast; rfl, hbias]
    push_cast
    ring
  have hsign : (if p / 2 ^ (F.expBits + F.fracBits) % 2 = 1 then (-1 : Rat) else 1) = signFactor (isNegative F p) := by
    rw [← signBit_eq_isNegative, signBit, signFactor]
    split_ifs <;> simp_all
  simp only [binaryValue, hsign, hbiasInt, ← magnitude_div, hlog]
  rw [← magnitude_mod, signedQuanta_eq, quanta_eq, magQuanta, Int.cast_mul, Int.cast_natCast, mul_div_assoc]
  congr 1
  have htwo : (2 : Rat) ≠ 0 := two_ne_zero
  split_ifs with he
  · have hmag : magnitude F p % 2 ^ F.fracBits = magnitude F p :=
      Nat.mod_eq_of_lt (by simpa [Nat.div_eq_zero_iff] using he)
    rw [hmag, show (1 : Int) - (b + 1) = -b by ring, zpow_neg, zpow_natCast, pow_add]
    field_simp
  · obtain ⟨e, hsucc⟩ := Nat.exists_eq_succ_of_ne_zero he
    rw [hsucc, Nat.succ_sub_one, show ((e.succ : Nat) : Int) - (b + 1) = e - b by push_cast; ring,
      zpow_sub₀ htwo, zpow_natCast, zpow_natCast, pow_add]
    push_cast
    field_simp

end Sys2Proof.Machine

/-! PROOFS. Rounding to nearest, ties to even (42_fp_primitives.md R92, R96): the magnitudes of a format with an unbounded
exponent grow strictly, `roundShift` picks the nearer of two neighbours, and infinity stands for what rounds beyond the
largest finite magnitude. -/

namespace Sys2Proof.Machine

section Magnitudes

variable (F : FloatFormat)

/-- Along one exponent the quanta are evenly spaced, up to the first magnitude of the next exponent. -/
theorem magQuanta_block {s q : Nat} (hq : q ≤ 2 ^ (F.fracBits + 1)) (hs : s = 0 ∨ 2 ^ F.fracBits ≤ q) :
    magQuanta F (s * 2 ^ F.fracBits + q) = q * 2 ^ s := by
  have hpos : 0 < 2 ^ F.fracBits := by positivity
  have hdouble : 2 ^ (F.fracBits + 1) = 2 * 2 ^ F.fracBits := by ring
  have hdiv : (s * 2 ^ F.fracBits + q) / 2 ^ F.fracBits = s + q / 2 ^ F.fracBits := by
    rw [Nat.add_comm, Nat.add_mul_div_right _ _ hpos, Nat.add_comm]
  have hmod : (s * 2 ^ F.fracBits + q) % 2 ^ F.fracBits = q % 2 ^ F.fracBits := by
    rw [Nat.add_comm, Nat.add_mul_mod_self_right]
  rw [magQuanta, hdiv, hmod]
  rcases Nat.lt_or_ge q (2 ^ F.fracBits) with hsub | hnormal
  · obtain rfl : s = 0 := by omega
    simp [Nat.div_eq_of_lt hsub]
  rcases Nat.eq_or_lt_of_le hq with hnext | hlt
  · have hqdiv : q / 2 ^ F.fracBits = 2 := by rw [hnext, hdouble, Nat.mul_div_cancel _ hpos]
    have hqmod : q % 2 ^ F.fracBits = 0 := by rw [hnext, hdouble, Nat.mul_mod_left]
    rw [hqdiv, hqmod, hnext, if_neg (by omega), show s + 2 - 1 = s + 1 by omega]
    ring
  · have hqdiv : q / 2 ^ F.fracBits = 1 := Nat.div_eq_of_lt_le (by omega) (by omega)
    have hqmod : 2 ^ F.fracBits + q % 2 ^ F.fracBits = q := by
      have := Nat.div_add_mod q (2 ^ F.fracBits)
      rwa [hqdiv, Nat.mul_one] at this
    rw [hqdiv, hqmod, if_neg (by omega), Nat.add_sub_cancel]

/-- Every magnitude has a place among the evenly spaced ones of an exponent. -/
theorem exists_block (m : Nat) :
    ∃ s q, m = s * 2 ^ F.fracBits + q ∧ q < 2 ^ (F.fracBits + 1) ∧ (s = 0 ∨ 2 ^ F.fracBits ≤ q) := by
  have hpos : 0 < 2 ^ F.fracBits := by positivity
  have hdouble : 2 ^ (F.fracBits + 1) = 2 * 2 ^ F.fracBits := by ring
  have hsplit := Nat.div_add_mod' m (2 ^ F.fracBits)
  have hmod := Nat.mod_lt m hpos
  rcases Nat.eq_zero_or_pos (m / 2 ^ F.fracBits) with hzero | hone
  · exact ⟨0, m % 2 ^ F.fracBits, by rw [← hzero, hsplit], by omega, .inl rfl⟩
  · obtain ⟨s, hs⟩ := Nat.exists_eq_add_of_le' hone
    rw [hs, Nat.add_mul, Nat.one_mul] at hsplit
    exact ⟨s, 2 ^ F.fracBits + m % 2 ^ F.fracBits, by omega, by omega, .inr (by omega)⟩

theorem magQuanta_strictMono : StrictMono (magQuanta F) := by
  refine strictMono_nat_of_lt_succ fun m => ?_
  obtain ⟨s, q, rfl, hq, hs⟩ := exists_block F m
  rw [magQuanta_block F hq.le hs, Nat.add_assoc, magQuanta_block F hq (by omega)]
  exact Nat.mul_lt_mul_of_pos_right q.lt_succ_self (by positivity)

@[simp] theorem magQuanta_zero : magQuanta F 0 = 0 := by simp [magQuanta]

end Magnitudes

/-- `roundShift` answers the nearer of the two neighbouring multiples, the even one on a tie: nothing outside the gap
between them is nearer. -/
theorem roundShift_nearest (m k : Nat) {x : Nat} (hx : x ≤ m / 2 ^ k * 2 ^ k ∨ (m / 2 ^ k + 1) * 2 ^ k ≤ x) :
    |((roundShift m k * 2 ^ k : Nat) : Int) - m| ≤ |(x : Int) - m| ∧
    (|((roundShift m k * 2 ^ k : Nat) : Int) - m| = |(x : Int) - m| → x ≠ roundShift m k * 2 ^ k →
      roundShift m k % 2 = 0) := by
  have hsplit := Nat.div_add_mod' m (2 ^ k)
  have hmod := Nat.mod_lt m (show 0 < 2 ^ k by positivity)
  have hsucc := Nat.add_one_mul (m / 2 ^ k) (2 ^ k)
  simp only [roundShift, Int.abs_eq_natAbs]
  split_ifs with hup <;> omega

section Rounding

variable (F : FloatFormat)

/-- How far rounding shifts `m / 2 ^ k` quanta: to `fracBits + 1` significant bits, or to whole quanta. -/
def roundingShift (m k : Nat) : Nat := max k (m.log2 - F.fracBits)

/-- The magnitude `m / 2 ^ k` quanta round to where the exponent has no bound. -/
def roundUnbounded (m k : Nat) : Nat :=
  (roundingShift F m k - k) * 2 ^ F.fracBits + roundShift m (roundingShift F m k)

theorem roundQuanta_eq (m k : Nat) : roundQuanta F m k = min (roundUnbounded F m k) (infPattern F) := rfl

theorem le_roundingShift (m k : Nat) : k ≤ roundingShift F m k := le_max_left _ _

/-- What is left of `m` by the shift has at most `fracBits + 1` bits, and all of them unless it is whole quanta. -/
theorem shifted_mem (m k : Nat) :
    m / 2 ^ roundingShift F m k < 2 ^ (F.fracBits + 1) ∧
    (roundingShift F m k - k = 0 ∨ 2 ^ F.fracBits ≤ m / 2 ^ roundingShift F m k) := by
  constructor
  · have hlog : m < 2 ^ (m.log2 + 1) := Nat.lt_log2_self
    have hle : m.log2 + 1 ≤ F.fracBits + 1 + roundingShift F m k := by unfold roundingShift; omega
    rw [Nat.div_lt_iff_lt_mul (by positivity), ← Nat.pow_add]
    exact hlog.trans_le (Nat.pow_le_pow_right two_pos hle)
  · rcases Nat.le_total (m.log2 - F.fracBits) k with hk | hk
    · exact .inl (by unfold roundingShift; omega)
    by_cases hlog : m.log2 - F.fracBits = 0
    · exact .inl (by unfold roundingShift; omega)
    have hm : m ≠ 0 := by
      rintro rfl
      simp at hlog
    have hshift : F.fracBits + roundingShift F m k = m.log2 := by unfold roundingShift; omega
    rw [Nat.le_div_iff_mul_le (by positivity), ← Nat.pow_add, hshift]
    exact .inr (Nat.log2_self_le hm)

/-- The two magnitudes around `m / 2 ^ k` quanta, scaled by `2 ^ k`, are neighbouring multiples of the shift. -/
theorem magQuanta_neighbours (m k : Nat) {q : Nat}
    (hq : q = m / 2 ^ roundingShift F m k ∨ q = m / 2 ^ roundingShift F m k + 1) :
    magQuanta F ((roundingShift F m k - k) * 2 ^ F.fracBits + q) * 2 ^ k = q * 2 ^ roundingShift F m k := by
  obtain ⟨hlt, hs⟩ := shifted_mem F m k
  rw [magQuanta_block F (by omega) (by omega), Nat.mul_assoc, ← Nat.pow_add,
    Nat.sub_add_cancel (le_roundingShift F m k)]

/-- The magnitude `u` is nearest to `m / 2 ^ k` quanta among all magnitudes, and even on a tie (R92). -/
def IsNearest (m k u : Nat) : Prop :=
  ∀ j, |((magQuanta F u * 2 ^ k : Nat) : Int) - m| ≤ |((magQuanta F j * 2 ^ k : Nat) : Int) - m| ∧
    (|((magQuanta F u * 2 ^ k : Nat) : Int) - m| = |((magQuanta F j * 2 ^ k : Nat) : Int) - m| →
      magQuanta F j ≠ magQuanta F u → u % 2 = 0)

variable {F} in
/-- The nearer of the two magnitudes around `m / 2 ^ k` quanta is the nearest of all. -/
theorem isNearest_roundUnbounded (hfrac : 1 ≤ F.fracBits) (m k : Nat) : IsNearest F m k (roundUnbounded F m k) := by
  intro j
  obtain ⟨b, hb⟩ : ∃ b, b = (roundingShift F m k - k) * 2 ^ F.fracBits := ⟨_, rfl⟩
  have hbeven : b % 2 = 0 := by
    obtain ⟨f, hf⟩ := Nat.exists_eq_add_of_le' hfrac
    rw [hb, hf, Nat.pow_succ, ← Nat.mul_assoc, Nat.mul_mod_left]
  have hvalue : ∀ q, (q = m / 2 ^ roundingShift F m k ∨ q = m / 2 ^ roundingShift F m k + 1) →
      magQuanta F (b + q) * 2 ^ k = q * 2 ^ roundingShift F m k := fun q hq => hb ▸ magQuanta_neighbours F m k hq
  have hpick : roundShift m (roundingShift F m k) = m / 2 ^ roundingShift F m k ∨
      roundShift m (roundingShift F m k) = m / 2 ^ roundingShift F m k + 1 := by
    simp only [roundShift]
    split_ifs <;> simp
  have hoff : magQuanta F j * 2 ^ k ≤ m / 2 ^ roundingShift F m k * 2 ^ roundingShift F m k ∨
      (m / 2 ^ roundingShift F m k + 1) * 2 ^ roundingShift F m k ≤ magQuanta F j * 2 ^ k := by
    have hmono := (magQuanta_strictMono F).monotone
    rcases Nat.lt_or_ge (b + m / 2 ^ roundingShift F m k) j with hj | hj
    · exact .inr (hvalue _ (.inr rfl) ▸ Nat.mul_le_mul_right _ (hmono hj))
    · exact .inl (hvalue _ (.inl rfl) ▸ Nat.mul_le_mul_right _ (hmono hj))
  obtain ⟨hle, htie⟩ := roundShift_nearest m (roundingShift F m k) hoff
  rw [roundUnbounded, ← hb, hvalue _ hpick]
  refine ⟨hle, fun heq hne => ?_⟩
  have hround : magQuanta F j * 2 ^ k ≠ roundShift m (roundingShift F m k) * 2 ^ roundingShift F m k := fun h =>
    hne (Nat.eq_of_mul_eq_mul_right (by positivity) (h.trans (hvalue _ hpick).symm))
  have := htie heq hround
  omega

end Rounding

end Sys2Proof.Machine

/-! PROOFS. The rounding predicate of the statements holds of the model's rounding: distances between rationals are
distances between integers in fractions of a quantum, and the bound of overflow lies half way between the largest finite
magnitude and infinity's. -/

namespace Sys2Proof.Machine

section Overflow

variable {F : FloatFormat}

/-- A nearest magnitude lies below an even one exactly when the rounded value lies below the middle between that and the
magnitude before it: on the tie the even one is taken. -/
theorem IsNearest.lt_iff {m k u n : Nat} (h : IsNearest F m k u) (hpos : 0 < n) (heven : n % 2 = 0) :
    u < n ↔ 2 * m < (magQuanta F (n - 1) + magQuanta F n) * 2 ^ k := by
  have hmono := magQuanta_strictMono F
  have hpow : 0 < 2 ^ k := by positivity
  have hgap : magQuanta F (n - 1) * 2 ^ k < magQuanta F n * 2 ^ k :=
    Nat.mul_lt_mul_of_pos_right (hmono (by omega)) hpow
  rw [Nat.add_mul]
  simp only [IsNearest, Int.abs_eq_natAbs] at h
  constructor
  · intro hlt
    obtain ⟨hle, htie⟩ := h n
    have hbelow : magQuanta F u * 2 ^ k ≤ magQuanta F (n - 1) * 2 ^ k :=
      Nat.mul_le_mul_right _ (hmono.monotone (by omega))
    have hne : magQuanta F n ≠ magQuanta F u := (hmono hlt).ne'
    by_contra hmid
    have hlast : magQuanta F u * 2 ^ k = magQuanta F (n - 1) * 2 ^ k := by omega
    have hu : u = n - 1 := hmono.injective (Nat.eq_of_mul_eq_mul_right hpow hlast)
    have := htie (by omega) hne
    omega
  · intro hmid
    by_contra hge
    have habove : magQuanta F n * 2 ^ k ≤ magQuanta F u * 2 ^ k :=
      Nat.mul_le_mul_right _ (hmono.monotone (by omega))
    have := (h (n - 1)).1
    omega

theorem infPattern_pos (hexp : 2 ≤ F.expBits) : 0 < infPattern F := by
  have : 1 < 2 ^ F.expBits := Nat.one_lt_two_pow (by omega)
  exact Nat.mul_pos (by omega) (by positivity)

theorem infPattern_even (hfrac : 1 ≤ F.fracBits) : infPattern F % 2 = 0 := by
  obtain ⟨f, hf⟩ := Nat.exists_eq_add_of_le' hfrac
  rw [infPattern, hf, Nat.pow_succ, ← Nat.mul_assoc, Nat.mul_mod_left]

theorem signWeight_even (hexp : 2 ≤ F.expBits) : signWeight F % 2 = 0 := by
  obtain ⟨e, he⟩ := Nat.exists_eq_add_of_le' hexp
  rw [signWeight, he, show e + 2 + F.fracBits = e + 1 + F.fracBits + 1 by ring, Nat.pow_succ, Nat.mul_mod_left]

/-- Twice the quanta at which rounding goes over to infinity. -/
def overflowQuanta (F : FloatFormat) : Nat := magQuanta F (infPattern F - 1) + magQuanta F (infPattern F)

/-- The bound of the statements, `(2 - 2 ^ -(fracBits + 1)) * 2 ^ emax`, in quanta (R96 b). -/
theorem overflowBound_eq (hexp : 2 ≤ F.expBits) :
    ((2 - 1 / 2 ^ (F.fracBits + 1)) * 2 ^ (2 ^ (F.expBits - 1) - 1) : Rat) =
      overflowQuanta F / (2 * 2 ^ quantumLog F) := by
  obtain ⟨b, hbias, hlog⟩ := exists_bias (F := F) hexp
  have hones : 2 ^ F.expBits = 2 * (b + 2) := by
    rw [← hbias, ← pow_succ', show F.expBits - 1 + 1 = F.expBits by omega]
  have hinf : infPattern F = (2 * b + 1) * 2 ^ F.fracBits + 2 ^ (F.fracBits + 1) := by
    rw [infPattern, hones, show 2 * (b + 2) - 1 = 2 * b + 1 + 2 by omega]
    ring
  have hpos : 0 < 2 ^ F.fracBits := by positivity
  have hdouble : 2 ^ (F.fracBits + 1) = 2 * 2 ^ F.fracBits := by ring
  have hlast : infPattern F - 1 = (2 * b + 1) * 2 ^ F.fracBits + (2 ^ (F.fracBits + 1) - 1) := by omega
  rw [overflowQuanta, hlast, hinf, magQuanta_block F (by omega) (by omega), magQuanta_block F le_rfl (by omega),
    hlog, hbias, show b + 2 - 1 = b + 1 by omega]
  push_cast [Nat.one_le_two_pow]
  field_simp
  ring

end Overflow

section Signed

variable {F : FloatFormat}

theorem signedQuanta_pack (n : Bool) {u : Nat} (hu : u < signWeight F) :
    signedQuanta F (pack F n u) = signFactor n * magQuanta F u := by
  rw [signedQuanta_eq, isNegative_pack F n hu, quanta_eq, magnitude_pack F n hu]

theorem signFactor_eq_or_neg (n n' : Bool) : signFactor n' = signFactor n ∨ signFactor n' = -signFactor n := by
  cases n <;> cases n' <;> simp [signFactor]

theorem natAbs_signFactor_mul (n : Bool) (m : Nat) : (signFactor n * m).natAbs = m := by
  cases n <;> simp [signFactor]

theorem pack_parity (hexp : 2 ≤ F.expBits) (n : Bool) (u : Nat) : pack F n u % 2 = u % 2 := by
  have := signWeight_even hexp
  unfold pack
  split_ifs <;> omega

/-- A nearest magnitude with the sign of the value is nearest among the values of both signs: zero lies between. -/
theorem IsNearest.signed {m k u : Nat} (h : IsNearest F m k u) (n n' : Bool) (j : Nat) :
    |signFactor n * magQuanta F u * 2 ^ k - signFactor n * m| ≤
      |signFactor n' * magQuanta F j * 2 ^ k - signFactor n * m| ∧
    (|signFactor n * magQuanta F u * 2 ^ k - signFactor n * m| =
      |signFactor n' * magQuanta F j * 2 ^ k - signFactor n * m| →
      signFactor n' * magQuanta F j ≠ signFactor n * magQuanta F u → u % 2 = 0) := by
  have hsame : ∀ x : Nat, |signFactor n * x * 2 ^ k - signFactor n * m| = |((x * 2 ^ k : Nat) : Int) - m| := by
    intro x
    rw [mul_assoc, ← mul_sub, abs_mul, abs_signFactor, one_mul]
    push_cast
    rfl
  have hopposite : ∀ x : Nat, |-signFactor n * x * 2 ^ k - signFactor n * m| = ((x * 2 ^ k : Nat) : Int) + m := by
    intro x
    have hsum : -signFactor n * x * 2 ^ k - signFactor n * m = -signFactor n * (((x * 2 ^ k : Nat) : Int) + m) := by
      push_cast
      ring
    rw [hsum, abs_mul, abs_neg, abs_signFactor, one_mul, abs_of_nonneg (by positivity)]
  rw [hsame]
  rcases signFactor_eq_or_neg n n' with heq | hneg
  · rw [heq, hsame]
    exact ⟨(h j).1, fun hdist hne => (h j).2 hdist fun hq => hne (by rw [hq])⟩
  · rw [hneg, hopposite]
    have hpow : 0 < 2 ^ k := by positivity
    obtain ⟨hle, htie⟩ := h 0
    simp only [magQuanta_zero, Nat.zero_mul, Int.abs_eq_natAbs] at hle htie ⊢
    refine ⟨by omega, fun hdist hne => htie (by omega) fun hzero => hne ?_⟩
    have hj : magQuanta F j * 2 ^ k = 0 := by
      rw [← hzero, Nat.zero_mul] at hdist
      omega
    rw [← hzero, (Nat.mul_eq_zero.1 hj).resolve_right hpow.ne']
    simp

end Signed

/-! A rounded signed value is the rounded magnitude packed with a sign. -/

/-- The sign `roundSigned` gives its result. -/
def signOrZero (z : Int) (zeroNegative : Bool) : Bool := if z = 0 then zeroNegative else decide (z < 0)

theorem roundQuanta_zero (F : FloatFormat) (k : Nat) : roundQuanta F 0 k = 0 := by
  simp [roundQuanta, roundShift]

theorem roundSigned_eq (F : FloatFormat) (z : Int) (zn : Bool) (k : Nat) :
    roundSigned F z zn k = pack F (signOrZero z zn) (roundQuanta F z.natAbs k) := by
  unfold roundSigned signOrZero
  split_ifs with hz
  · rw [hz, Int.natAbs_zero, roundQuanta_zero]
  · rfl

theorem signFactor_signOrZero (z : Int) (zn : Bool) : signFactor (signOrZero z zn) * z.natAbs = z := by
  unfold signOrZero
  split_ifs with hz
  · simp [hz]
  · by_cases hneg : z < 0
    · simp only [hneg, decide_true, signFactor, if_true]
      omega
    · simp only [hneg, decide_false, signFactor, Bool.false_eq_true, if_false]
      omega

section Rational

variable {F : FloatFormat} (hexp : 2 ≤ F.expBits)
include hexp

/-- The distance of a pattern's value from a multiple of a fraction of the quantum. -/
theorem abs_binaryValue_sub (p k : Nat) (z : Int) :
    |binaryValue F p - z / 2 ^ (k + quantumLog F)| =
      ((|signedQuanta F p * 2 ^ k - z| : Int) : Rat) / 2 ^ (k + quantumLog F) := by
  have hdiff : binaryValue F p - z / 2 ^ (k + quantumLog F) =
      ((signedQuanta F p * 2 ^ k - z : Int) : Rat) / 2 ^ (k + quantumLog F) := by
    rw [binaryValue_eq hexp, pow_add]
    push_cast
    field_simp
  rw [hdiff, abs_div, abs_of_pos (show (0 : Rat) < 2 ^ (k + quantumLog F) by positivity), Int.cast_abs]

theorem binaryValue_inj (p q : Nat) : binaryValue F p = binaryValue F q ↔ signedQuanta F p = signedQuanta F q := by
  rw [binaryValue_eq hexp, binaryValue_eq hexp, div_left_inj' (by positivity), Int.cast_inj]

theorem abs_lt_overflowBound_iff (z : Int) (k : Nat) :
    |(z : Rat) / 2 ^ (k + quantumLog F)| < (2 - 1 / 2 ^ (F.fracBits + 1)) * 2 ^ (2 ^ (F.expBits - 1) - 1) ↔
      2 * z.natAbs < overflowQuanta F * 2 ^ k := by
  rw [overflowBound_eq hexp, abs_div, abs_of_pos (show (0 : Rat) < 2 ^ (k + quantumLog F) by positivity),
    ← Int.cast_abs, Int.abs_eq_natAbs, Int.cast_natCast, div_lt_div_iff₀ (by positivity) (by positivity), pow_add,
    ← Nat.cast_lt (α := Rat)]
  push_cast
  rw [← mul_assoc, ← mul_assoc, mul_lt_mul_iff_left₀ (by positivity), mul_comm (2 : Rat)]

/-- A nearest magnitude below infinity's, with the sign of the value, is what the value rounds to. -/
theorem roundsTo_of_lt_infPattern {m k u : Nat} (n : Bool) (h : IsNearest F m k u) (hlt : u < infPattern F)
    (hbelow : 2 * m < overflowQuanta F * 2 ^ k) :
    RoundsTo F (((signFactor n * m : Int) : Rat) / 2 ^ (k + quantumLog F)) (pack F n u) := by
  have hweight : u < signWeight F := hlt.trans (infPattern_lt F)
  have hfinite : IsFinite F (pack F n u) := by rwa [isFinite_iff, magnitude_pack F n hweight]
  refine .inl ⟨?_, hfinite, fun q _ _ => ?_⟩
  · rwa [abs_lt_overflowBound_iff hexp, natAbs_signFactor_mul]
  obtain ⟨hle, htie⟩ := h.signed n (isNegative F q) (magnitude F q)
  rw [abs_binaryValue_sub hexp, abs_binaryValue_sub hexp, div_le_div_iff_of_pos_right (by positivity),
    div_left_inj' (by positivity), Int.cast_le, Int.cast_inj, ne_eq, binaryValue_inj hexp, signedQuanta_pack n hweight,
    signedQuanta_eq F q, quanta_eq, pack_parity hexp]
  exact ⟨hle, htie⟩

/-- From the bound on a value rounds to the infinity of its sign. -/
theorem roundsTo_infPattern {m k : Nat} (n : Bool) (habove : ¬ 2 * m < overflowQuanta F * 2 ^ k) :
    RoundsTo F (((signFactor n * m : Int) : Rat) / 2 ^ (k + quantumLog F)) (pack F n (infPattern F)) := by
  have hpos : 0 < overflowQuanta F * 2 ^ k :=
    Nat.mul_pos (Nat.add_pos_right _ (magQuanta_strictMono F (infPattern_pos hexp)).pos) (by positivity)
  have hnum : (0 : Rat) < m := by exact_mod_cast (show 0 < m by omega)
  have hden : (0 : Rat) < 2 ^ (k + quantumLog F) := by positivity
  have hsign : ((signFactor n * m : Int) : Rat) / 2 ^ (k + quantumLog F) < 0 ↔ n = true := by
    cases n
    · simp [signFactor, div_nonneg hnum.le hden.le]
    · simp [signFactor, neg_div, div_pos hnum hden]
  refine .inr ⟨?_, ?_⟩
  · rwa [← not_lt, abs_lt_overflowBound_iff hexp, natAbs_signFactor_mul]
  · simp only [hsign]
    rfl

/-- Rounding a value with a sign and a magnitude gives a pattern the value rounds to (R92, R96 a and b). -/
theorem roundsTo_pack_roundQuanta (hfrac : 1 ≤ F.fracBits) (n : Bool) (m k : Nat) :
    RoundsTo F (((signFactor n * m : Int) : Rat) / 2 ^ (k + quantumLog F)) (pack F n (roundQuanta F m k)) := by
  have hnear := isNearest_roundUnbounded hfrac m k
  have hiff := hnear.lt_iff (infPattern_pos hexp) (infPattern_even hfrac)
  rw [roundQuanta_eq]
  rcases Nat.lt_or_ge (roundUnbounded F m k) (infPattern F) with hlt | hge
  · rw [min_eq_left hlt.le]
    exact roundsTo_of_lt_infPattern hexp n hnear hlt (hiff.1 hlt)
  · rw [min_eq_right hge]
    exact roundsTo_infPattern hexp n (hiff.not.1 hge.not_gt)

/-- A signed value rounds to the pattern the model packs, a zero of either sign included. -/
theorem roundsTo_roundSigned (hfrac : 1 ≤ F.fracBits) (z : Int) (zn : Bool) (k : Nat) :
    RoundsTo F ((z : Rat) / 2 ^ (k + quantumLog F)) (roundSigned F z zn k) := by
  have h := roundsTo_pack_roundQuanta hexp hfrac (signOrZero z zn) z.natAbs k
  rwa [signFactor_signOrZero, ← roundSigned_eq] at h

end Rational

end Sys2Proof.Machine

/-! PROOFS. The conversion of binary16 to binary32 (42_fp_primitives.md R98): a value that keeps `fracBits + 1` bits
after the shift is rounded to itself. -/

namespace Sys2Proof.Machine

section Exact

variable (F : FloatFormat)

theorem roundShift_of_dvd {m k : Nat} (h : 2 ^ k ∣ m) : roundShift m k = m / 2 ^ k := by
  simp [roundShift, Nat.mod_eq_zero_of_dvd h, (Nat.two_pow_pos k).ne]

/-- A value with at most `fracBits + 1` significant bits, above one quantum, is a magnitude's. -/
theorem magQuanta_roundUnbounded_of_lt {q t k : Nat} (hq : q < 2 ^ (F.fracBits + 1)) (hk : k ≤ t) :
    magQuanta F (roundUnbounded F (q * 2 ^ t) k) * 2 ^ k = q * 2 ^ t := by
  have hshift : roundingShift F (q * 2 ^ t) k ≤ t := by
    rcases Nat.eq_zero_or_pos q with rfl | hpos
    · simpa [roundingShift] using hk
    · have hlt : q * 2 ^ t < 2 ^ (F.fracBits + 1 + t) := by
        rw [Nat.pow_add]
        exact Nat.mul_lt_mul_of_pos_right hq (by positivity)
      have := (Nat.log2_lt (Nat.mul_pos hpos (by positivity)).ne').2 hlt
      unfold roundingShift
      omega
  have hdvd : 2 ^ roundingShift F (q * 2 ^ t) k ∣ q * 2 ^ t := (pow_dvd_pow 2 hshift).mul_left q
  rw [roundUnbounded, roundShift_of_dvd hdvd, magQuanta_neighbours F _ k (.inl rfl), Nat.div_mul_cancel hdvd]

end Exact

/-- How many binary32 quanta a binary16 quantum is, as a power of two: `2 ^ -24 = 2 ^ 125 * 2 ^ -149`. -/
theorem quantumLog_diff : quantumLog binary32 - quantumLog binary16 = 125 := rfl

/-- Every binary16 magnitude is one of binary32 (R98). -/
theorem magQuanta_roundUnbounded_binary32 (m : Nat) :
    magQuanta binary32 (roundUnbounded binary32 (magQuanta binary16 m * 2 ^ 125) 0) = magQuanta binary16 m * 2 ^ 125 := by
  obtain ⟨s, q, rfl, hq, hs⟩ := exists_block binary16 m
  have hwide : q < 2 ^ (binary32.fracBits + 1) := hq.trans (by decide)
  have := magQuanta_roundUnbounded_of_lt binary32 (t := s + 125) hwide (Nat.zero_le _)
  rwa [Nat.pow_zero, Nat.mul_one, Nat.pow_add, ← Nat.mul_assoc, ← magQuanta_block binary16 hq.le hs] at this

/-- A finite magnitude of binary16 converts to a finite one of binary32, of as many quanta in binary32's. -/
theorem roundQuanta_of_binary16 {m : Nat} (hm : m < infPattern binary16) :
    roundQuanta binary32 (magQuanta binary16 m * 2 ^ 125) 0 < infPattern binary32 ∧
    magQuanta binary32 (roundQuanta binary32 (magQuanta binary16 m * 2 ^ 125) 0) = magQuanta binary16 m * 2 ^ 125 := by
  have hexact := magQuanta_roundUnbounded_binary32 m
  have hlt : roundUnbounded binary32 (magQuanta binary16 m * 2 ^ 125) 0 < infPattern binary32 := by
    rw [← (magQuanta_strictMono binary32).lt_iff_lt, hexact]
    calc magQuanta binary16 m * 2 ^ 125
        < magQuanta binary16 (infPattern binary16) * 2 ^ 125 :=
          Nat.mul_lt_mul_of_pos_right (magQuanta_strictMono binary16 hm) (by positivity)
      _ < magQuanta binary32 (infPattern binary32) := by decide
  rw [roundQuanta_eq, min_eq_left hlt.le]
  exact ⟨hlt, hexact⟩

/-- The pattern a finite binary16 pattern converts to. -/
theorem fpCvt16to32_of_isFinite {a : Half} (h : IsFinite binary16 a.toNat) :
    (fpCvt16to32 a).toNat = pack binary32 (isNegative binary16 a.toNat)
      (roundQuanta binary32 (magQuanta binary16 (magnitude binary16 a.toNat) * 2 ^ 125) 0) := by
  obtain ⟨hlt, -⟩ := roundQuanta_of_binary16 ((isFinite_iff _ _).1 h)
  simp only [fpCvt16to32, isNaN_of_isFinite h, isInf_of_isFinite h, Bool.false_eq_true, if_false, quantumLog_diff,
    quanta_eq]
  refine BitVec.toNat_ofNat _ _ |>.trans (Nat.mod_eq_of_lt ?_)
  rw [infPattern_binary32] at hlt
  unfold pack
  split_ifs
  · rw [signWeight_binary32]; omega
  · omega

/-- A NaN converts to a NaN (R94, R98). -/
theorem isNaNPattern_fpCvt16to32 {a : Half} (h : IsNaNPattern binary16 a.toNat) :
    IsNaNPattern binary32 (fpCvt16to32 a).toNat := by
  rw [isNaNPattern_iff] at h ⊢
  simp [fpCvt16to32, h]

/-- Settles O27: the magnitude keeps its value, the pattern its sign. -/
theorem convert16To32IsExact : Obligations.Convert16To32IsExact := by
  intro a
  refine ⟨fun hfin => ?finite, ?posInf, ?negInf, isNaNPattern_fpCvt16to32⟩
  case finite =>
    obtain ⟨hlt, hquanta⟩ := roundQuanta_of_binary16 ((isFinite_iff _ _).1 hfin)
    have hweight := hlt.trans (infPattern_lt binary32)
    rw [fpCvt16to32_of_isFinite hfin, isFinite_iff, magnitude_pack _ _ hweight, signBit_eq_isNegative,
      signBit_eq_isNegative, isNegative_pack _ _ hweight]
    refine ⟨hlt, ?_, rfl⟩
    rw [binaryValue_eq (by decide), binaryValue_eq (by decide), signedQuanta_pack _ hweight, hquanta, signedQuanta_eq,
      quanta_eq, show quantumLog binary32 = quantumLog binary16 + 125 from rfl, pow_add]
    rw [Nat.cast_mul, Nat.cast_pow, ← mul_assoc, Int.cast_mul, Int.cast_pow, Nat.cast_ofNat, Int.cast_ofNat,
      mul_div_mul_right _ _ (by positivity)]
  case posInf => rintro rfl; rfl
  case negInf => rintro rfl; rfl

end Sys2Proof.Machine

/-! PROOFS. Addition, multiplication and fused multiply-add on the patterns of a format (42_fp_primitives.md R91, R94,
R96): the invalid cases, the infinite ones, and the finite ones, which are rounded once. -/

namespace Sys2Proof.Machine

section Classes

variable {F : FloatFormat} {p : Nat}

theorem isNaN_of_isInf (h : isInf F p = true) : isNaN F p = false := by
  have hmag : magnitude F p = infPattern F := of_decide_eq_true h
  exact decide_eq_false (by omega)

theorem isInf_of_isZero (hexp : 2 ≤ F.expBits) (h : isZero F p = true) : isInf F p = false := by
  have hmag : magnitude F p = 0 := of_decide_eq_true h
  have hpos := infPattern_pos hexp
  exact decide_eq_false (by omega)

end Classes

/-! Where the result is a NaN (R94). -/

section Invalid

variable {F : FloatFormat} {a b c : Nat}

theorem addPattern_of_isNaN (h : isNaN F a = true ∨ isNaN F b = true) : addPattern F a b = none := by
  simp [addPattern, h]

theorem addPattern_of_opposite_isInf (ha : isInf F a = true) (hb : isInf F b = true)
    (hsign : isNegative F a ≠ isNegative F b) : addPattern F a b = none := by
  simp [addPattern, ha, hb, hsign]

theorem mulPattern_comm (a b : Nat) : mulPattern F a b = mulPattern F b a := by
  simp only [mulPattern, bne_comm (a := isNegative F a), Bool.or_comm (isNaN F a), Bool.or_comm (isInf F a),
    Bool.or_comm (isZero F a), Nat.mul_comm (quanta F a)]

theorem mulPattern_of_isNaN (h : isNaN F a = true ∨ isNaN F b = true) : mulPattern F a b = none := by
  simp [mulPattern, h]

/-- Zero times infinity, in either order. -/
def IsZeroTimesInf (F : FloatFormat) (a b : Nat) : Prop :=
  (isZero F a = true ∧ isInf F b = true) ∨ (isInf F a = true ∧ isZero F b = true)

theorem IsZeroTimesInf.isInf (h : IsZeroTimesInf F a b) : isInf F a = true ∨ isInf F b = true :=
  h.elim (fun h => .inr h.2) fun h => .inl h.1

theorem IsZeroTimesInf.isZero (h : IsZeroTimesInf F a b) : isZero F a = true ∨ isZero F b = true :=
  h.elim (fun h => .inl h.1) fun h => .inr h.2

theorem mulPattern_of_isZeroTimesInf (h : IsZeroTimesInf F a b) : mulPattern F a b = none := by
  simp [mulPattern, h.isInf, h.isZero]

theorem fmaPattern_of_isNaN (h : isNaN F a = true ∨ isNaN F b = true ∨ isNaN F c = true) :
    fmaPattern F a b c = none := by
  simp [fmaPattern, or_assoc, h]

theorem fmaPattern_of_isZeroTimesInf (h : IsZeroTimesInf F a b) : fmaPattern F a b c = none := by
  simp [fmaPattern, h.isInf, h.isZero]

end Invalid

/-! Where an operand is infinite and the result is too (R96 c). -/

section Infinite

variable {F : FloatFormat} {a b : Nat}

theorem addPattern_of_isInf_left (ha : isInf F a = true) (hb : IsFinite F b) : addPattern F a b = some a := by
  simp [addPattern, ha, isNaN_of_isInf ha, isNaN_of_isFinite hb, isInf_of_isFinite hb]

theorem addPattern_of_isInf_right (ha : IsFinite F a) (hb : isInf F b = true) : addPattern F a b = some b := by
  simp [addPattern, hb, isNaN_of_isInf hb, isNaN_of_isFinite ha, isInf_of_isFinite ha]

theorem mulPattern_of_isInf (ha : isInf F a = true) (haz : isZero F a = false) (hbz : isZero F b = false)
    (hb : isNaN F b = false) :
    mulPattern F a b = some (pack F (isNegative F a != isNegative F b) (infPattern F)) := by
  simp [mulPattern, ha, hb, hbz, haz, isNaN_of_isInf ha]

end Infinite

/-! Where all operands are finite: the exact result in fractions of a quantum, rounded once (R92, R96). -/

section Finite

variable {F : FloatFormat} {a b c : Nat} (ha : IsFinite F a) (hb : IsFinite F b)
include ha hb

theorem addPattern_of_isFinite : addPattern F a b =
    some (roundSigned F (signedQuanta F a + signedQuanta F b) (isNegative F a && isNegative F b) 0) := by
  simp [addPattern, isNaN_of_isFinite, isInf_of_isFinite, ha, hb]

theorem mulPattern_of_isFinite : mulPattern F a b =
    some (pack F (isNegative F a != isNegative F b) (roundQuanta F (quanta F a * quanta F b) (quantumLog F))) := by
  simp [mulPattern, isNaN_of_isFinite, isInf_of_isFinite, ha, hb]

theorem fmaPattern_of_isFinite (hc : IsFinite F c) : fmaPattern F a b c =
    some (roundSigned F (signedQuanta F a * signedQuanta F b + signedQuanta F c * 2 ^ quantumLog F)
      ((isNegative F a != isNegative F b) && isNegative F c) (quantumLog F)) := by
  simp [fmaPattern, isNaN_of_isFinite, isInf_of_isFinite, ha, hb, hc]

end Finite

section Values

variable {F : FloatFormat} (hexp : 2 ≤ F.expBits) (a b c : Nat)
include hexp

theorem binaryValue_add :
    binaryValue F a + binaryValue F b = ((signedQuanta F a + signedQuanta F b : Int) : Rat) / 2 ^ (0 + quantumLog F) := by
  rw [binaryValue_eq hexp, binaryValue_eq hexp, ← add_div, zero_add, Int.cast_add]

theorem binaryValue_mul :
    binaryValue F a * binaryValue F b =
      ((signedQuanta F a * signedQuanta F b : Int) : Rat) / 2 ^ (quantumLog F + quantumLog F) := by
  rw [binaryValue_eq hexp, binaryValue_eq hexp, div_mul_div_comm, ← pow_add, Int.cast_mul]

theorem binaryValue_mul_add :
    binaryValue F a * binaryValue F b + binaryValue F c =
      ((signedQuanta F a * signedQuanta F b + signedQuanta F c * 2 ^ quantumLog F : Int) : Rat) /
        2 ^ (quantumLog F + quantumLog F) := by
  rw [binaryValue_mul hexp, binaryValue_eq hexp c, Int.cast_add, add_div]
  push_cast
  rw [pow_add, mul_div_mul_right _ _ (by positivity)]

end Values

theorem signedQuanta_mul (F : FloatFormat) (a b : Nat) : signedQuanta F a * signedQuanta F b =
    signFactor (isNegative F a != isNegative F b) * (quanta F a * quanta F b : Nat) := by
  rw [signedQuanta_eq, signedQuanta_eq, signFactor_bne]
  push_cast
  ring

/-! The operations of the two formats: each answers the pattern computed for its format, or a NaN. -/

/-- `add`, `mul` and `fma` are the operations of the format `F` on words of `w` bits (R91). -/
structure FloatArithmetic (F : FloatFormat) (w : Nat) (add mul : BitVec w → BitVec w → BitVec w)
    (fma : BitVec w → BitVec w → BitVec w → BitVec w) : Prop where
  width : 2 ^ w = 2 * signWeight F
  two_le_expBits : 2 ≤ F.expBits
  one_le_fracBits : 1 ≤ F.fracBits
  add_some : ∀ {a b p}, addPattern F a.toNat b.toNat = some p → add a b = BitVec.ofNat w p
  add_none : ∀ {a b}, addPattern F a.toNat b.toNat = none → isNaN F (add a b).toNat = true
  mul_some : ∀ {a b p}, mulPattern F a.toNat b.toNat = some p → mul a b = BitVec.ofNat w p
  mul_none : ∀ {a b}, mulPattern F a.toNat b.toNat = none → isNaN F (mul a b).toNat = true
  fma_some : ∀ {a b c p}, fmaPattern F a.toNat b.toNat c.toNat = some p → fma a b c = BitVec.ofNat w p
  fma_none : ∀ {a b c}, fmaPattern F a.toNat b.toNat c.toNat = none → isNaN F (fma a b c).toNat = true

theorem floatArithmetic16 : FloatArithmetic binary16 16 fpAdd16 fpMul16 fpFma16 where
  width := rfl
  two_le_expBits := by decide
  one_le_fracBits := by decide
  add_some h := fpAdd16_of_some h
  add_none h := by simp [fpAdd16, h]
  mul_some h := fpMul16_of_some h
  mul_none h := by simp [fpMul16, h]
  fma_some h := by simp [fpFma16, h]
  fma_none h := by simp [fpFma16, h]

theorem floatArithmetic32 : FloatArithmetic binary32 32 fpAdd32 fpMul32 fpFma32 where
  width := rfl
  two_le_expBits := by decide
  one_le_fracBits := by decide
  add_some h := fpAdd32_of_some h
  add_none h := by simp [fpAdd32, h]
  mul_some h := fpMul32_of_some h
  mul_none h := by simp [fpMul32, h]
  fma_some h := by simp [fpFma32, h]
  fma_none h := by simp [fpFma32, h]

namespace FloatArithmetic

variable {F : FloatFormat} {w : Nat} {add mul : BitVec w → BitVec w → BitVec w}
  {fma : BitVec w → BitVec w → BitVec w → BitVec w} (h : FloatArithmetic F w add mul fma) {a b c : BitVec w}
include h

/-- A pattern of the format is read back from its word. -/
theorem toNat_ofNat_pack (n : Bool) {u : Nat} (hu : u ≤ infPattern F) :
    (BitVec.ofNat w (pack F n u)).toNat = pack F n u := by
  have hlt := infPattern_lt F
  rw [BitVec.toNat_ofNat, h.width]
  refine Nat.mod_eq_of_lt ?_
  unfold pack
  split_ifs <;> omega

section Finite

variable (ha : IsFinite F a.toNat) (hb : IsFinite F b.toNat)
include ha hb

theorem add_roundsTo : RoundsTo F (binaryValue F a.toNat + binaryValue F b.toNat) (add a b).toNat := by
  have hround := roundsTo_roundSigned h.two_le_expBits h.one_le_fracBits
    (signedQuanta F a.toNat + signedQuanta F b.toNat) (isNegative F a.toNat && isNegative F b.toNat) 0
  rw [h.add_some (addPattern_of_isFinite ha hb), binaryValue_add h.two_le_expBits]
  rwa [roundSigned_eq, h.toNat_ofNat_pack _ (roundQuanta_le F _ _), ← roundSigned_eq]

theorem mul_toNat : (mul a b).toNat = pack F (isNegative F a.toNat != isNegative F b.toNat)
    (roundQuanta F (quanta F a.toNat * quanta F b.toNat) (quantumLog F)) := by
  rw [h.mul_some (mulPattern_of_isFinite ha hb), h.toNat_ofNat_pack _ (roundQuanta_le F _ _)]

theorem mul_roundsTo : RoundsTo F (binaryValue F a.toNat * binaryValue F b.toNat) (mul a b).toNat := by
  rw [h.mul_toNat ha hb, binaryValue_mul h.two_le_expBits, signedQuanta_mul]
  exact roundsTo_pack_roundQuanta h.two_le_expBits h.one_le_fracBits _ _ _

theorem fma_roundsTo (hc : IsFinite F c.toNat) :
    RoundsTo F (binaryValue F a.toNat * binaryValue F b.toNat + binaryValue F c.toNat) (fma a b c).toNat := by
  have hround := roundsTo_roundSigned h.two_le_expBits h.one_le_fracBits
    (signedQuanta F a.toNat * signedQuanta F b.toNat + signedQuanta F c.toNat * 2 ^ quantumLog F)
    ((isNegative F a.toNat != isNegative F b.toNat) && isNegative F c.toNat) (quantumLog F)
  rw [h.fma_some (fmaPattern_of_isFinite ha hb hc), binaryValue_mul_add h.two_le_expBits]
  rwa [roundSigned_eq, h.toNat_ofNat_pack _ (roundQuanta_le F _ _), ← roundSigned_eq]

/-- A zero sum is negative only where both operands are (R96 a). -/
theorem add_of_sum_eq_zero (hsum : binaryValue F a.toNat + binaryValue F b.toNat = 0) :
    add a b = if signBit F a.toNat && signBit F b.toNat then BitVec.ofNat w (pack F true 0)
      else BitVec.ofNat w (pack F false 0) := by
  have hquanta : signedQuanta F a.toNat + signedQuanta F b.toNat = 0 := by
    rw [binaryValue_add h.two_le_expBits, div_eq_zero_iff, or_iff_left (by positivity)] at hsum
    exact_mod_cast hsum
  rw [h.add_some (addPattern_of_isFinite ha hb), hquanta, signBit_eq_isNegative, signBit_eq_isNegative, roundSigned,
    if_pos rfl]
  split_ifs with hsign <;> simp [hsign]

/-- The sign of a product is the exclusive-or of the signs (R96 a). -/
theorem signBit_mul : signBit F (mul a b).toNat = (signBit F a.toNat != signBit F b.toNat) := by
  have hlt := (roundQuanta_le F (quanta F a.toNat * quanta F b.toNat) (quantumLog F)).trans_lt (infPattern_lt F)
  simp only [h.mul_toNat ha hb, signBit_eq_isNegative, isNegative_pack F _ hlt]

end Finite

theorem add_of_isInf_left (ha : isInf F a.toNat = true) (hb : IsFinite F b.toNat) : add a b = a := by
  rw [h.add_some (addPattern_of_isInf_left ha hb), BitVec.ofNat_toNat, BitVec.setWidth_eq]

theorem add_of_isInf_right (ha : IsFinite F a.toNat) (hb : isInf F b.toNat = true) : add a b = b := by
  rw [h.add_some (addPattern_of_isInf_right ha hb), BitVec.ofNat_toNat, BitVec.setWidth_eq]

/-- Infinity times a non-zero value is the infinity of the product's sign, in either order (R96 c). -/
theorem mul_of_isInf (ha : isInf F a.toNat = true) (hbz : isZero F b.toNat = false)
    (hb : ¬ IsNaNPattern F b.toNat) :
    mul a b = (if signBit F a.toNat != signBit F b.toNat then BitVec.ofNat w (pack F true (infPattern F))
      else BitVec.ofNat w (pack F false (infPattern F))) ∧ mul b a = mul a b := by
  rw [isNaNPattern_iff, Bool.not_eq_true] at hb
  have haz : isZero F a.toNat = false :=
    eq_false_of_ne_true fun hz => absurd ha (by simp [isInf_of_isZero h.two_le_expBits hz])
  have hab := mulPattern_of_isInf ha haz hbz hb
  have hba := (mulPattern_comm b.toNat a.toNat).trans hab
  rw [h.mul_some hab, h.mul_some hba, signBit_eq_isNegative, signBit_eq_isNegative]
  refine ⟨?_, rfl⟩
  split_ifs with hsign <;> simp [hsign]

/-! The invalid cases in the words of the statements (R94). -/

theorem isNaNPattern_add (hab : IsNaNPattern F a.toNat ∨ IsNaNPattern F b.toNat) :
    IsNaNPattern F (add a b).toNat := by
  simp only [isNaNPattern_iff] at hab ⊢
  exact h.add_none (addPattern_of_isNaN hab)

theorem isNaNPattern_mul (hab : IsNaNPattern F a.toNat ∨ IsNaNPattern F b.toNat) :
    IsNaNPattern F (mul a b).toNat := by
  simp only [isNaNPattern_iff] at hab ⊢
  exact h.mul_none (mulPattern_of_isNaN hab)

theorem isNaNPattern_fma (habc : IsNaNPattern F a.toNat ∨ IsNaNPattern F b.toNat ∨ IsNaNPattern F c.toNat) :
    IsNaNPattern F (fma a b c).toNat := by
  simp only [isNaNPattern_iff] at habc ⊢
  exact h.fma_none (fmaPattern_of_isNaN habc)

theorem isNaNPattern_add_of_opposite_isInf (ha : isInf F a.toNat = true) (hb : isInf F b.toNat = true)
    (hsign : isNegative F a.toNat ≠ isNegative F b.toNat) : IsNaNPattern F (add a b).toNat :=
  (isNaNPattern_iff F _).2 (h.add_none (addPattern_of_opposite_isInf ha hb hsign))

theorem isNaNPattern_of_isZeroTimesInf (hab : IsZeroTimesInf F a.toNat b.toNat) :
    IsNaNPattern F (mul a b).toNat ∧ IsNaNPattern F (fma a b c).toNat := by
  simp only [isNaNPattern_iff]
  exact ⟨h.mul_none (mulPattern_of_isZeroTimesInf hab), h.fma_none (fmaPattern_of_isZeroTimesInf hab)⟩

end FloatArithmetic

theorem isZeroTimesInf16 {a b : Half} (h : a.toNat % 2 ^ 15 = 0 ∧ b.toNat % 2 ^ 15 = 0x7C00 ∨
    a.toNat % 2 ^ 15 = 0x7C00 ∧ b.toNat % 2 ^ 15 = 0) : IsZeroTimesInf binary16 a.toNat b.toNat :=
  h.imp (.imp decide_eq_true decide_eq_true) (.imp decide_eq_true decide_eq_true)

theorem isZeroTimesInf32 {a b : Word} (h : a.toNat % 2 ^ 31 = 0 ∧ b.toNat % 2 ^ 31 = 0x7F800000 ∨
    a.toNat % 2 ^ 31 = 0x7F800000 ∧ b.toNat % 2 ^ 31 = 0) : IsZeroTimesInf binary32 a.toNat b.toNat :=
  h.imp (.imp decide_eq_true decide_eq_true) (.imp decide_eq_true decide_eq_true)

/-- Settles O29: each listed case has no pattern as its result, so both formats answer a NaN of their own. -/
theorem invalidOperationsGiveANaN : Obligations.InvalidOperationsGiveANaN := by
  have h16 := floatArithmetic16
  have h32 := floatArithmetic32
  refine ⟨fun a b c => ⟨fun hab => ⟨h16.isNaNPattern_add hab, h16.isNaNPattern_mul hab⟩, h16.isNaNPattern_fma,
      ?opposite16, fun hab => h16.isNaNPattern_of_isZeroTimesInf (isZeroTimesInf16 hab)⟩,
    fun a b c => ⟨fun hab => ⟨h32.isNaNPattern_add hab, h32.isNaNPattern_mul hab⟩, h32.isNaNPattern_fma,
      ?opposite32, fun hab => h32.isNaNPattern_of_isZeroTimesInf (isZeroTimesInf32 hab)⟩,
    fun _ => isNaNPattern_fpCvt16to32⟩
  case opposite16 =>
    rintro (⟨rfl, rfl⟩ | ⟨rfl, rfl⟩) <;>
      exact h16.isNaNPattern_add_of_opposite_isInf (by decide) (by decide) (by decide)
  case opposite32 =>
    rintro (⟨rfl, rfl⟩ | ⟨rfl, rfl⟩) <;>
      exact h32.isNaNPattern_add_of_opposite_isInf (by decide) (by decide) (by decide)

theorem isInf_binary16 {a : Half} (h : a = 0x7C00#16 ∨ a = 0xFC00#16) : isInf binary16 a.toNat = true := by
  rcases h with rfl | rfl <;> decide

theorem isInf_binary32 {a : Word} (h : a = 0x7F800000#32 ∨ a = 0xFF800000#32) : isInf binary32 a.toNat = true := by
  rcases h with rfl | rfl <;> decide

/-- Settles O28: what holds of the arithmetic of a format holds of both, with the constants of each. -/
theorem finiteArithmeticIsCorrectlyRounded : Obligations.FiniteArithmeticIsCorrectlyRounded := by
  refine ⟨fun a b c ha hb hc => ?finite16, fun a b c ha hb hc => ?finite32, fun a b ha hb hnan => ?infinite16,
    fun a b ha hb hnan => ?infinite32⟩
  case finite16 =>
    have h := floatArithmetic16
    exact ⟨h.add_roundsTo ha hb, h.mul_roundsTo ha hb, h.fma_roundsTo ha hb hc, h.add_of_sum_eq_zero ha hb,
      h.signBit_mul ha hb, h.add_of_isInf_left (by decide) ha, h.add_of_isInf_left (by decide) ha,
      h.add_of_isInf_right ha (by decide), h.add_of_isInf_right ha (by decide)⟩
  case finite32 =>
    have h := floatArithmetic32
    exact ⟨h.add_roundsTo ha hb, h.mul_roundsTo ha hb, h.fma_roundsTo ha hb hc, h.add_of_sum_eq_zero ha hb,
      h.signBit_mul ha hb, h.add_of_isInf_left (by decide) ha, h.add_of_isInf_left (by decide) ha,
      h.add_of_isInf_right ha (by decide), h.add_of_isInf_right ha (by decide)⟩
  case infinite16 => exact floatArithmetic16.mul_of_isInf (isInf_binary16 ha) (decide_eq_false hb) hnan
  case infinite32 => exact floatArithmetic32.mul_of_isInf (isInf_binary32 ha) (decide_eq_false hb) hnan

end Sys2Proof.Machine

/-! PROOFS. The dot products (43_dot_product.md): the integer reducers are sums of 32-bit components (R111, R112), the
floating one a chain of roundings (R119), and each command gives the value of its reducer. -/

namespace Sys2Proof.Machine

/-- A command that executes as the driver over `op` completes, with any property that `op` gives the lane values. -/
theorem completes_of_exec_eq_drive32 {i : Instr} {s : State} (hx : Executes i s) {op : Word → Word → Word → Word}
    (hexec : exec i s = drive32 (catalog i) i.fields s op) {value : Lane → Word → Prop}
    (hop : ∀ l, value l (op (source32 (catalog i) i.fields s 0 l) (source32 (catalog i) i.fields s 1 l)
      (source32 (catalog i) i.fields s 2 l))) :
    ∃ t, exec i s = .next t ∧ Completed32 i s t value :=
  ⟨_, hexec.trans (drive32_executes hx op), completed32_commitRow i s _ fun l _ => hop l⟩

theorem trunc_add (n : Nat) (a b : Int) : trunc n (a + b) = trunc n a + trunc n b := BitVec.ofInt_add a b

/-- Pairing the fields of two values of one width is a map over the field numbers (R81). -/
theorem zipWith_split {α : Type} {W : Nat} (w : Nat) (g : BitVec w → BitVec w → α) (u v : BitVec W) :
    List.zipWith g (split u w) (split v w) =
      (List.range (W / w)).map fun i => g (u.extractLsb' (w * i) w) (v.extractLsb' (w * i) w) := by
  simp only [split, List.zipWith_map, List.zipWith_self, Nat.mul_comm]

/-- The low bits of a sum are the sum of the low bits, term by term. -/
theorem trunc_sum_range (m n : Nat) (g : Nat → Int) :
    trunc m ((List.range n).map g).sum = (List.range n).foldl (fun acc i => acc + trunc m (g i)) 0#m := by
  induction n with
  | zero => simp [trunc]
  | succ n ih => simp [List.range_succ, trunc_add, ih]

/-- A sum of integers over the field pairs and a bias, taken modulo 2^32, is the sum of what each is modulo 2^32. -/
theorem trunc_sum_zipWith_split {w : Nat} (g : BitVec w → BitVec w → Int) (s0 s1 : Word) (bias : Int)
    {component : Nat → Word}
    (h : ∀ i, trunc 32 (g (s0.extractLsb' (w * i) w) (s1.extractLsb' (w * i) w)) = component i) :
    trunc 32 ((List.zipWith g (split s0 w) (split s1 w)).sum + bias) =
      sumOfComponents (32 / w) component (trunc 32 bias) := by
  simp only [zipWith_split, trunc_add, trunc_sum_range, h, sumOfComponents]

/-- A product clamped to a signed field and sign-extended is the component of R111. -/
theorem trunc_clampS_eq_signedComponent {w : Nat} (hw : 1 ≤ w) (c : Bool) (s0 s1 : Word) (i : Nat) :
    trunc 32 (clampS w ((s0.extractLsb' (w * i) w).toInt * (s1.extractLsb' (w * i) w).toInt) c).toInt =
      signedComponent w c s0 s1 i := by
  cases c
  case false =>
    have hproduct (x y : BitVec w) : clampS w (x.toInt * y.toInt) false = x * y := by
      simp only [clampS, trunc, Bool.false_eq_true, if_false, BitVec.ofInt_mul, BitVec.ofInt_toInt]
    rw [hproduct]
    rfl
  case true =>
    rw [clampS_true_toInt hw, satS_eq_max_min]
    rfl

/-- A product clamped to an unsigned field and zero-extended is the component of R112. -/
theorem trunc_clampU_eq_unsignedComponent (w : Nat) (c : Bool) (s0 s1 : Word) (i : Nat) :
    trunc 32 (clampU w (((s0.extractLsb' (w * i) w).toNat : Int) * (s1.extractLsb' (w * i) w).toNat) c).toNat =
      unsignedComponent w c s0 s1 i := by
  cases c
  case false =>
    have hproduct (x y : BitVec w) : clampU w ((x.toNat : Int) * y.toNat) false = x * y := by
      simp only [clampU, trunc, Bool.false_eq_true, if_false, BitVec.ofInt_mul, BitVec.ofInt_natCast,
        BitVec.ofNat_toNat, BitVec.setWidth_eq]
    rw [hproduct, trunc, BitVec.ofInt_natCast, BitVec.ofNat_toNat]
    rfl
  case true =>
    have hsat (m : Nat) : satU w m = (min (2 ^ w - 1) m : Nat) := by
      have hcast : ((2 ^ w - 1 : Nat) : Int) = 2 ^ w - 1 := by simp
      have hpos : (0 : Int) < 2 ^ w := by positivity
      rw [satU_eq_max_min, Nat.cast_min, hcast]
      omega
    rw [clampU_true_toNat, ← Nat.cast_mul, hsat]
    exact BitVec.ofInt_natCast _ _

/-- `dot_s` is the sum of the signed components and the bias (R111). -/
theorem dotS_eq_sumOfComponents {w : Nat} (hw : 1 ≤ w) (s0 s1 s2 : Word) (c : Bool) :
    dotS w s0 s1 s2 c = sumOfComponents (32 / w) (signedComponent w c s0 s1) s2 := by
  rw [dotS, trunc_sum_zipWith_split _ _ _ _ (trunc_clampS_eq_signedComponent hw c s0 s1), trunc_toInt_self]

/-- `dot_u` is the sum of the unsigned components and the bias (R112). -/
theorem dotU_eq_sumOfComponents (w : Nat) (s0 s1 s2 : Word) (c : Bool) :
    dotU w s0 s1 s2 c = sumOfComponents (32 / w) (unsignedComponent w c s0 s1) s2 := by
  have hbias : trunc 32 (s2.toNat : Int) = s2 := by simp [trunc]
  rw [dotU, trunc_sum_zipWith_split _ _ _ _ (trunc_clampU_eq_unsignedComponent w c s0 s1), hbias]

/-- The floating dot product rounds once per addition: component 0, component 1, then the bias (R119). -/
theorem dotF_eq (s0 s1 s2 : Word) (c : Bool) :
    dotF s0 s1 s2 c = fpAdd32 (fpAdd32 (fpAdd32 0#32 (dotComponent c (field16 s0 0) (field16 s1 0)))
      (dotComponent c (field16 s0 1) (field16 s1 1))) s2 := by
  simp only [dotF, split_word_16, List.zipWith_cons_cons, List.zipWith_nil_left, List.foldl_cons, List.foldl_nil]

/-- A command that executes as the driver over `dot_s` completes with the sum of the signed components. -/
theorem completes_of_exec_eq_dotS {i : Instr} {s : State} {w : Nat} (hw : 1 ≤ w) (hx : Executes i s)
    (hexec : exec i s = drive32 (catalog i) i.fields s fun s0 s1 s2 => dotS w s0 s1 s2 i.fields.clamp) :
    ∃ t, exec i s = .next t ∧ Completed32 i s t fun l v =>
      v = sumOfComponents (32 / w) (signedComponent w i.fields.clamp (source32 (catalog i) i.fields s 0 l)
        (source32 (catalog i) i.fields s 1 l)) (source32 (catalog i) i.fields s 2 l) :=
  completes_of_exec_eq_drive32 hx hexec fun _ => dotS_eq_sumOfComponents hw _ _ _ _

/-- A command that executes as the driver over `dot_u` completes with the sum of the unsigned components. -/
theorem completes_of_exec_eq_dotU {i : Instr} {s : State} (w : Nat) (hx : Executes i s)
    (hexec : exec i s = drive32 (catalog i) i.fields s fun s0 s1 s2 => dotU w s0 s1 s2 i.fields.clamp) :
    ∃ t, exec i s = .next t ∧ Completed32 i s t fun l v =>
      v = sumOfComponents (32 / w) (unsignedComponent w i.fields.clamp (source32 (catalog i) i.fields s 0 l)
        (source32 (catalog i) i.fields s 1 l)) (source32 (catalog i) i.fields s 2 l) :=
  completes_of_exec_eq_drive32 hx hexec fun _ => dotU_eq_sumOfComponents w _ _ _ _

/-- Settles O48: `dot_s` on two 16-bit fields. -/
theorem dot2I32I16Result : Obligations.Dot2I32I16Result := fun _ _ hx =>
  ⟨Laws.OpcodeByte.low_byte _ _, completes_of_exec_eq_dotS (w := 16) (by decide) hx rfl⟩

/-- Settles O49: `dot_u` on two 16-bit fields. -/
theorem dot2U32U16Result : Obligations.Dot2U32U16Result := fun _ _ hx =>
  ⟨Laws.OpcodeByte.low_byte _ _, completes_of_exec_eq_dotU 16 hx rfl⟩

/-- Settles O50: `dot_s` on four 8-bit fields. -/
theorem dot4I32I8Result : Obligations.Dot4I32I8Result := fun _ _ hx =>
  ⟨Laws.OpcodeByte.low_byte _ _, completes_of_exec_eq_dotS (w := 8) (by decide) hx rfl⟩

/-- Settles O51: `dot_u` on four 8-bit fields. -/
theorem dot4U32U8Result : Obligations.Dot4U32U8Result := fun _ _ hx =>
  ⟨Laws.OpcodeByte.low_byte _ _, completes_of_exec_eq_dotU 8 hx rfl⟩

/-- Settles O52: `dot_s` on eight 4-bit fields. -/
theorem dot8I32I4Result : Obligations.Dot8I32I4Result := fun _ _ hx =>
  ⟨Laws.OpcodeByte.low_byte _ _, completes_of_exec_eq_dotS (w := 4) (by decide) hx rfl⟩

/-- Settles O53: `dot_u` on eight 4-bit fields. -/
theorem dot8U32U4Result : Obligations.Dot8U32U4Result := fun _ _ hx =>
  ⟨Laws.OpcodeByte.low_byte _ _, completes_of_exec_eq_dotU 4 hx rfl⟩

/-- Settles O54: the reducer starts from +0.0 and rounds in the order of R119. -/
theorem dot2F32F16Result : Obligations.Dot2F32F16Result := fun f s hx =>
  have hexec : exec (.dot2F32F16 f) s =
      drive32 (catalog (.dot2F32F16 f)) f s fun s0 s1 s2 => dotF s0 s1 s2 f.clamp := rfl
  ⟨Laws.OpcodeByte.low_byte _ _, completes_of_exec_eq_drive32 hx hexec fun _ => dotF_eq _ _ _ _⟩

end Sys2Proof.Machine

/-! PROOFS. The lane driver (44_lane_driver.md): a lane depends on its own values only (R129), the order of the lanes is
free (R130), an empty mask writes nothing (R132), and a uniform operand is a broadcast of its value (R128). -/

namespace Sys2Proof.Machine

/-- Settles O15: from rows that agree in a lane the command answers rows that agree in it, all else being the same. -/
theorem laneResultDependsOnItsLaneOnly : Obligations.LaneResultDependsOnItsLaneOnly := by
  intro i s s' t t' l hsame h h'
  obtain ⟨hs, hlane⟩ := hsame
  obtain ⟨w, hw, hlanes⟩ := exec_with_vr h' s.vr
  rw [← hs, h] at hw
  cases hw
  exact ⟨rfl, hlanes l hlane⟩

section InsertCell

variable {c d : RegCell} {ds : List RegCell}

theorem insertCell_cons_of_lt (h : c.key < d.key) : insertCell c (d :: ds) = c :: d :: ds := if_pos h

theorem insertCell_cons_of_eq (h : c.key = d.key) : insertCell c (d :: ds) = c :: ds := by
  simp [insertCell, h]

theorem insertCell_cons_of_gt (h : d.key < c.key) : insertCell c (d :: ds) = d :: insertCell c ds := by
  simp [insertCell, h.ne', Nat.not_lt_of_gt h]

/-- The later of two cells is inserted behind the earlier one, whichever comes first. -/
theorem insertCell_comm_of_lt (h : c.key < d.key) (es : List RegCell) :
    insertCell c (insertCell d es) = insertCell d (insertCell c es) := by
  induction es with
  | nil => rw [insertCell, insertCell_cons_of_lt h, insertCell, insertCell_cons_of_gt h, insertCell]
  | cons e es ih =>
    rcases Nat.lt_trichotomy c.key e.key with hc | hc | hc
    · rw [insertCell_cons_of_lt hc, insertCell_cons_of_gt h]
      rcases Nat.lt_trichotomy d.key e.key with hd | hd | hd
      · rw [insertCell_cons_of_lt hd, insertCell_cons_of_lt h]
      · rw [insertCell_cons_of_eq hd, insertCell_cons_of_lt h]
      · rw [insertCell_cons_of_gt hd, insertCell_cons_of_lt hc]
    · rw [insertCell_cons_of_gt (hc ▸ h), insertCell_cons_of_eq hc, insertCell_cons_of_eq hc,
        insertCell_cons_of_gt h]
    · rw [insertCell_cons_of_gt (hc.trans h), insertCell_cons_of_gt hc, insertCell_cons_of_gt hc,
        insertCell_cons_of_gt (hc.trans h), ih]

/-- Two cells of different row lanes can be inserted in either order. -/
theorem insertCell_comm (h : c.key ≠ d.key) (es : List RegCell) :
    insertCell c (insertCell d es) = insertCell d (insertCell c es) := by
  rcases Nat.lt_or_gt_of_ne h with h | h
  · exact insertCell_comm_of_lt h es
  · exact (insertCell_comm_of_lt h es).symm

end InsertCell

/-- Writes of different row lanes can be made in either order. -/
theorem RegFile.write_comm {r r' : Nat} {l l' : Lane} (h : r ≠ r' ∨ l ≠ l') (f : RegFile) (v v' : Word) :
    (f.write r l v).write r' l' v' = (f.write r' l' v').write r l v := by
  refine congrArg RegFile.mk (insertCell_comm (fun hkey => ?_) _)
  obtain ⟨hr, hl⟩ := RegCell.key_inj hkey
  rcases h with h | h
  · exact h hr.symm
  · exact h hl.symm

/-- A 32-bit result can be committed in any order of the lanes. -/
theorem RegFile.commitRow_perm {ls ls' : List Lane} (h : ls.Perm ls') (f : RegFile) (r : Nat) (stage : Lane → Word) :
    f.commitRow r ls stage = f.commitRow r ls' stage := by
  refine h.foldl_eq' (fun x _ y _ g => ?_) f
  by_cases hxy : x = y
  · rw [hxy]
  · exact RegFile.write_comm (.inr hxy) _ _ _

/-- A 64-bit result can be committed in any order of the lanes. -/
theorem RegFile.commitPair_perm {ls ls' : List Lane} (h : ls.Perm ls') (f : RegFile) (r : Nat)
    (stage : Lane → Container) : f.commitPair r ls stage = f.commitPair r ls' stage := by
  refine h.foldl_eq' (fun x _ y _ g => ?_) f
  by_cases hxy : x = y
  · rw [hxy]
  · have hswap (g : RegFile) (a b : Nat) (v w : Word) :
        (g.write a x v).write b y w = (g.write b y w).write a x v := RegFile.write_comm (.inr hxy) _ _ _
    simp only [hswap _ (r + 1), hswap _ r]

/-- Settles O19: writes of different lanes commute, in canonical form or not. -/
theorem laneOrderIsUnobservable : Obligations.LaneOrderIsUnobservable := fun f r _ _ _ hperm =>
  ⟨RegFile.commitRow_perm hperm f r, RegFile.commitPair_perm hperm f r⟩

/-- With other committed rows a command has the same outcome beside the rows. -/
theorem runCommand_with_rows {sh : Shape} {f : Fields} {s t : State} {v : RegFile}
    (h : runCommand sh f s v = .next t) (w : RegFile) : ∃ u, runCommand sh f s w = .next { t with vr := u } := by
  obtain ⟨hh, ⟨c, hc, rfl⟩ | ⟨hc, rfl⟩⟩ := runCommand_next h
  · exact ⟨s.vr, by simp only [runCommand, hh, hc]; rfl⟩
  · exact ⟨w, by simp only [runCommand, hh, hc]; rfl⟩

/-- With other inputs and fields, but the same checks, warning and committed rows, a command has the same outcome. -/
theorem runCommand_with_inputs {sh : Shape} {f g : Fields} {s t : State} {q : Inputs} {v : RegFile}
    (hcause : fatalCause sh g { s with inputs := q } = fatalCause sh f s) (hwarns : warns sh g = warns sh f)
    (h : runCommand sh f s v = .next t) :
    runCommand sh g { s with inputs := q } v = .next { t with inputs := q } := by
  obtain ⟨hh, hcases⟩ := runCommand_next h
  have hh' : ({ s with inputs := q } : State).halted = false := hh
  rcases hcases with ⟨c, hc, rfl⟩ | ⟨hc, rfl⟩ <;> simp only [runCommand, hh', hcause, hc, hwarns] <;> rfl

/-- The empty mask has no active lane. -/
@[simp] theorem activeLanes_zero : activeLanes 0#64 = [] := by simp [activeLanes]

/-- With the empty mask the rows committed are the rows as they are. -/
theorem exec_of_empty_mask (i : Instr) {s : State} (h : s.inputs.exec = 0#64) :
    exec i s = runCommand (catalog i) i.fields s s.vr := by
  rcases exec_drives i with ⟨_, op, hop⟩ | ⟨_, op, hop⟩ <;> rw [hop]
  · simp only [drive32, h, activeLanes_zero, RegFile.commitRow, List.foldl_nil]
  · simp only [drive64, h, activeLanes_zero, RegFile.commitPair, List.foldl_nil]

/-- Settles O16: the commit is empty, and the checks and the warning do not read the mask. -/
theorem emptyMaskChangesNoRow : Obligations.EmptyMaskChangesNoRow := by
  intro i s t hmask h
  rw [exec_of_empty_mask i hmask] at h
  refine ⟨?_, fun m => ?_⟩
  · obtain ⟨_, ⟨_, _, rfl⟩ | ⟨_, rfl⟩⟩ := runCommand_next h <;> rfl
  · obtain ⟨v, hv⟩ := exec_runs i { s with inputs := { s.inputs with exec := m } }
    have hchecked := runCommand_with_inputs (q := { s.inputs with exec := m }) rfl rfl h
    obtain ⟨u, hu⟩ := runCommand_with_rows hchecked v
    exact ⟨_, hv.trans hu, rfl, rfl, rfl⟩

/-- A commit takes the staged values of the listed lanes only. -/
theorem RegFile.commitRow_congr {ls : List Lane} {g g' : Lane → Word} (h : ∀ l ∈ ls, g' l = g l) (f : RegFile)
    (r : Nat) : f.commitRow r ls g' = f.commitRow r ls g :=
  List.foldl_ext _ _ f fun _ l hl => by rw [h l hl]

theorem RegFile.commitPair_congr {ls : List Lane} {g g' : Lane → Container} (h : ∀ l ∈ ls, g' l = g l) (f : RegFile)
    (r : Nat) : f.commitPair r ls g' = f.commitPair r ls g :=
  List.foldl_ext _ _ f fun _ l hl => by rw [h l hl]

section MakeUniform

variable (f : Fields) (p : Inputs) (k : Nat) (x : Container)

@[simp] theorem makeUniform_vdst : (makeUniform f k).vdst = f.vdst := by unfold makeUniform; split <;> rfl

@[simp] theorem makeUniform_umod : (makeUniform f k).umod = f.umod := by unfold makeUniform; split <;> rfl

@[simp] theorem srcField_makeUniform (j : Nat) : srcField (makeUniform f k) j = srcField f j := by
  unfold makeUniform; split <;> rfl

/-- Making a source uniform leaves `CLAMP` and the modifiers as they are. -/
theorem makeUniform_modes :
    (makeUniform f k).clamp = f.clamp ∧ (makeUniform f k).opsel = f.opsel ∧ (makeUniform f k).opselHi = f.opselHi ∧
    (makeUniform f k).neg = f.neg ∧ (makeUniform f k).negHi = f.negHi := by
  unfold makeUniform
  split <;> exact ⟨rfl, rfl, rfl, rfl, rfl⟩

theorem modesAgree_makeUniform (i : Instr) : ModesAgree i (makeUniform i.fields k) := by
  obtain ⟨hclamp, hopsel, hopselHi, hneg, hnegHi⟩ := makeUniform_modes i.fields k
  refine ⟨fun _ => hclamp, ?_⟩
  cases i <;> simp [ModifiersAgree, hopsel, hopselHi, hneg, hnegHi]

@[simp] theorem setUval_exec : (setUval p k x).exec = p.exec := by unfold setUval; split <;> rfl

@[simp] theorem setUval_accOffset : (setUval p k x).accOffset = p.accOffset := by unfold setUval; split <;> rfl

variable {k}

/-- Of the three sources, the one made uniform is uniform and the others are as before. -/
theorem srcUniform_makeUniform (hk : k < 3) {j : Nat} (hj : j < 3) :
    srcUniform (makeUniform f k) j = (decide (j = k) || srcUniform f j) := by
  interval_cases k <;> interval_cases j <;> rfl

theorem uniformValue_setUval (hk : k < 3) {j : Nat} (hj : j < 3) :
    uniformValue (setUval p k x) j = if j = k then x else uniformValue p j := by
  interval_cases k <;> interval_cases j <;> rfl

end MakeUniform

section Broadcast

variable {sh : Shape} {f : Fields} {s : State} {k : Nat} {x : Container}

theorem destRow_makeUniform :
    destRow sh (makeUniform f k) { s with inputs := setUval s.inputs k x } = destRow sh f s := by
  simp [destRow]

theorem sourceRow_makeUniform (j : Nat) :
    sourceRow sh (makeUniform f k) { s with inputs := setUval s.inputs k x } j = sourceRow sh f s j := by
  simp [sourceRow]

/-- The warning's condition reads the modifiers only (R197). -/
theorem warns_makeUniform : warns sh (makeUniform f k) = warns sh f := by
  simp only [warns, makeUniform_modes f k]

/-- A source whose rows exist meets the row check, and a uniform one has no rows to check (R56). -/
theorem sourceOutOfRange_makeUniform (hk : k < 3) (hr : sourceRow sh f s k + extraRows sh < s.params.nreg) {j : Nat}
    (hj : j < 3) :
    sourceOutOfRange sh (makeUniform f k) { s with inputs := setUval s.inputs k x } j = sourceOutOfRange sh f s j := by
  unfold sourceOutOfRange
  rw [srcUniform_makeUniform f hk hj, sourceRow_makeUniform]
  by_cases hjk : j = k
  · subst hjk
    simp [hr]
  · simp [hjk]

/-- A source of an ordinary command, whose rows exist, can be made uniform without any check answering otherwise. -/
theorem fatalCause_makeUniform (hk : k < 3) (hacc : sh.accSource = false)
    (hr : sourceRow sh f s k + extraRows sh < s.params.nreg) :
    fatalCause sh (makeUniform f k) { s with inputs := setUval s.inputs k x } = fatalCause sh f s := by
  have hsrc {j : Nat} (hj : j < 3) := sourceOutOfRange_makeUniform (x := x) hk hr hj
  have hrows : rowOutOfRange sh (makeUniform f k) { s with inputs := setUval s.inputs k x } = rowOutOfRange sh f s := by
    simp only [rowOutOfRange, hsrc (j := 0) (by decide), hsrc (j := 1) (by decide), hsrc (j := 2) (by decide),
      destOutOfRange, destRow_makeUniform]
  simp only [fatalCause, hacc, hrows, makeUniform_umod, Bool.false_and]

/-- A lane in which the row of source `k` holds the low half of `x` has the same 32-bit sources. -/
theorem source32_makeUniform (hk : k < 3) (hu : srcUniform f k = false) {l : Lane}
    (hx : s.vr.read (sourceRow sh f s k) l = x.extractLsb' 0 32) {j : Nat} (hj : j < 3) :
    source32 sh (makeUniform f k) { s with inputs := setUval s.inputs k x } j l = source32 sh f s j l := by
  unfold source32
  rw [srcUniform_makeUniform f hk hj, uniformValue_setUval _ _ hk hj, sourceRow_makeUniform]
  by_cases hjk : j = k
  · subst hjk
    simp [hu, hx]
  · simp [hjk]

/-- A lane in which the rows of source `k` hold the two halves of `x` has the same 64-bit sources. -/
theorem source64_makeUniform (hk : k < 3) (hu : srcUniform f k = false) {l : Lane}
    (hlow : s.vr.read (sourceRow sh f s k) l = x.extractLsb' 0 32)
    (hhigh : s.vr.read (sourceRow sh f s k + 1) l = x.extractLsb' 32 32) {j : Nat} (hj : j < 3) :
    source64 sh (makeUniform f k) { s with inputs := setUval s.inputs k x } j l = source64 sh f s j l := by
  have hhalves : x.extractLsb' 32 32 ++ x.extractLsb' 0 32 = x :=
    (BitVec.extractLsb'_append_extractLsb'_eq_extractLsb' (by decide)).trans BitVec.extractLsb'_eq_self
  unfold source64
  rw [srcUniform_makeUniform f hk hj, uniformValue_setUval _ _ hk hj, sourceRow_makeUniform]
  by_cases hjk : j = k
  · subst hjk
    simp [hu, RegFile.readPair, hlow, hhigh, hhalves]
  · simp [hjk]

end Broadcast

/-- Settles O17: the checks and the warning are the same, and so are the sources in every active lane. -/
theorem uniformOperandIsABroadcast : Obligations.UniformOperandIsABroadcast := by
  intro i s t k x hk hu hacc hr hx h
  have harity := arity_le_three i
  have hk3 : k < 3 := by omega
  have hactive l (hl : l ∈ activeLanes s.inputs.exec) := hx l ((mem_activeLanes _ _).1 hl)
  have hmodes := modesAgree_makeUniform k i
  suffices hsame : exec (i.withFields (makeUniform i.fields k)) { s with inputs := setUval s.inputs k x } =
      .next { t with inputs := setUval s.inputs k x } from ⟨_, hsame, rfl, rfl, rfl, rfl⟩
  rw [← withFields_fields i] at h
  cases hw : (catalog i).wide
  · obtain ⟨op, hdrive, hop⟩ := exec_withFields_drive32 hw
    rw [hdrive] at h ⊢
    have hlane l (hl : l ∈ activeLanes s.inputs.exec) := hop.lane_eq hmodes fun j hj =>
      source32_makeUniform hk3 hu (hactive l hl).1 (Nat.lt_of_lt_of_le hj harity)
    simp only [drive32, destRow_makeUniform, setUval_exec, RegFile.commitRow_congr hlane]
    exact runCommand_with_inputs (fatalCause_makeUniform hk3 hacc hr) warns_makeUniform h
  · obtain ⟨op, hdrive, hop⟩ := exec_withFields_drive64 hw s.params
    rw [hdrive _ _ rfl] at h
    rw [hdrive _ { s with inputs := setUval s.inputs k x } rfl]
    have hlane l (hl : l ∈ activeLanes s.inputs.exec) := hop.lane_eq hmodes fun j hj =>
      source64_makeUniform hk3 hu (hactive l hl).1 ((hactive l hl).2 hw) (Nat.lt_of_lt_of_le hj harity)
    simp only [drive64, destRow_makeUniform, setUval_exec, RegFile.commitPair_congr hlane]
    exact runCommand_with_inputs (fatalCause_makeUniform hk3 hacc hr) warns_makeUniform h

end Sys2Proof.Machine

/-! PROOFS. The packed 16-bit commands (45_packed16.md): what the clamps, the selections and the shifts give on one field
(R141 to R153), and each command gives its operation in both fields (R140). -/

namespace Sys2Proof.Machine

/-- A command that executes as the driver over a two-source field operation completes with that operation's value in
every field (R140). -/
theorem completes_of_exec_eq_perField2 {i : Instr} {s : State} (hx : Executes i s) {op value : Half → Half → Half}
    (hop : ∀ x y, op x y = value x y)
    (hexec : exec i s = drive32 (catalog i) i.fields s fun s0 s1 _ => perField2 op s0 s1) :
    ∃ t, exec i s = .next t ∧ Completed32 i s t fun l v => ∀ j < 2,
      field16 v j = value (field16 (source32 (catalog i) i.fields s 0 l) j)
        (field16 (source32 (catalog i) i.fields s 1 l) j) :=
  completes_of_exec_eq_drive32 hx hexec fun _ _ hj => (field16_perField2 op _ _ hj).trans (hop _ _)

/-- A command that executes as the driver over a three-source field operation completes with that operation's value in
every field (R140). -/
theorem completes_of_exec_eq_perField3 {i : Instr} {s : State} (hx : Executes i s)
    {op value : Half → Half → Half → Half} (hop : ∀ x y z, op x y z = value x y z)
    (hexec : exec i s = drive32 (catalog i) i.fields s (perField3 op)) :
    ∃ t, exec i s = .next t ∧ Completed32 i s t fun l v => ∀ j < 2,
      field16 v j = value (field16 (source32 (catalog i) i.fields s 0 l) j)
        (field16 (source32 (catalog i) i.fields s 1 l) j) (field16 (source32 (catalog i) i.fields s 2 l) j) :=
  completes_of_exec_eq_drive32 hx hexec fun _ _ hj => (field16_perField3 op _ _ _ hj).trans (hop _ _ _)

section Arithmetic

variable {n : Nat} (a b : Int) (x y : BitVec n)

theorem trunc_sub : trunc n (a - b) = trunc n a - trunc n b := by
  rw [Int.sub_eq_add_neg, trunc_add, trunc, trunc, BitVec.ofInt_neg, BitVec.sub_eq_add_neg, trunc]

theorem trunc_mul : trunc n (a * b) = trunc n a * trunc n b := BitVec.ofInt_mul a b

/-- Truncating the unsigned view of a field gives the field. -/
theorem trunc_toNat_self : trunc n (x.toNat : Int) = x := by
  rw [trunc, BitVec.ofInt_natCast, BitVec.ofNat_toNat, BitVec.setWidth_eq]

/-- The low bits of the product of the unsigned fields are the product of the fields (R142). -/
theorem trunc_toNat_mul_toNat : trunc n (x.toNat * y.toNat) = x * y := by
  rw [trunc_mul, trunc_toNat_self, trunc_toNat_self]

end Arithmetic

/-- The signed 16-bit clamp saturates with the flag and takes the low bits without (R74). -/
theorem clampI16_eq (z : Int) (c : Bool) :
    clampI16 z c = if c then BitVec.ofInt 16 (max (-32768) (min 32767 z)) else trunc 16 z := by
  rw [clampI16, clampS, satS_eq_max_min]
  rfl

/-- The unsigned 16-bit clamp saturates with the flag and takes the low bits without (R74). -/
theorem clampU16_eq (z : Int) (c : Bool) :
    clampU16 z c = if c then BitVec.ofInt 16 (max 0 (min 65535 z)) else trunc 16 z := by
  rw [clampU16, clampU, satU_eq_max_min]
  rfl

section Clamps

variable (c : Bool) (x y z : Half)

/-- A signed field passes its clamp with either flag (R77). -/
theorem clampI16_toInt : clampI16 x.toInt c = x :=
  BitVec.eq_of_toInt_eq (clampS_toInt_of_mem (by decide) (BitVec.le_toInt x) (Int.le_sub_one_of_lt BitVec.toInt_lt) c)

/-- An unsigned field passes its clamp with either flag (R77). -/
theorem clampU16_toNat : clampU16 x.toNat c = x :=
  BitVec.eq_of_toNat_eq (Int.ofNat.inj (clampU_toNat_of_mem (Int.natCast_nonneg _) (by omega) c))

/-- The multiply-add of the signed fields wraps as that of the fields does (R141). -/
theorem clampI16_mul_add : clampI16 (x.toInt * y.toInt + z.toInt) c =
    if c then BitVec.ofInt 16 (max (-32768) (min 32767 (x.toInt * y.toInt + z.toInt))) else x * y + z := by
  rw [clampI16_eq, trunc_add, trunc_mul, trunc_toInt_self, trunc_toInt_self, trunc_toInt_self]

/-- The sum of the signed fields wraps as that of the fields does (R143). -/
theorem clampI16_add : clampI16 (x.toInt + y.toInt) c =
    if c then BitVec.ofInt 16 (max (-32768) (min 32767 (x.toInt + y.toInt))) else x + y := by
  rw [clampI16_eq, trunc_add, trunc_toInt_self, trunc_toInt_self]

/-- The difference of the signed fields wraps as that of the fields does (R144). -/
theorem clampI16_sub : clampI16 (x.toInt - y.toInt) c =
    if c then BitVec.ofInt 16 (max (-32768) (min 32767 (x.toInt - y.toInt))) else x - y := by
  rw [clampI16_eq, trunc_sub, trunc_toInt_self, trunc_toInt_self]

/-- The sum of the unsigned fields wraps as that of the fields does, and saturates at the upper bound only (R145). -/
theorem clampU16_add : clampU16 ((x.toNat : Int) + y.toNat) c =
    if c then BitVec.ofNat 16 (min 65535 (x.toNat + y.toNat)) else x + y := by
  have hsat : max 0 (min 65535 ((x.toNat : Int) + y.toNat)) = (min 65535 (x.toNat + y.toNat) : Nat) := by omega
  rw [clampU16_eq, hsat, BitVec.ofInt_natCast, trunc_add, trunc_toNat_self, trunc_toNat_self]

/-- The difference of the unsigned fields wraps as that of the fields does, and saturates at the lower bound only
(R146). -/
theorem clampU16_sub : clampU16 ((x.toNat : Int) - y.toNat) c =
    if c then (if x.toNat < y.toNat then 0#16 else x - y) else x - y := by
  have hwrap : trunc 16 ((x.toNat : Int) - y.toNat) = x - y := by rw [trunc_sub, trunc_toNat_self, trunc_toNat_self]
  rw [clampU16_eq, hwrap]
  congr 1
  by_cases hlt : x.toNat < y.toNat
  · have hsat : max 0 (min 65535 ((x.toNat : Int) - y.toNat)) = 0 := by omega
    rw [hsat, if_pos hlt]
    rfl
  · have hsat : max 0 (min 65535 ((x.toNat : Int) - y.toNat)) = (x.toNat : Int) - y.toNat := by omega
    rw [hsat, if_neg hlt]
    exact hwrap

/-- The lesser signed field is selected, and no clamp changes it (R147). -/
theorem clampI16_min : clampI16 (if x.toInt ≤ y.toInt then x.toInt else y.toInt) c = if y.slt x then y else x := by
  rw [← apply_ite, clampI16_toInt]
  simp only [BitVec.slt_iff_toInt_lt, ← not_lt, ite_not]

/-- The greater signed field is selected, and no clamp changes it (R148). -/
theorem clampI16_max : clampI16 (if x.toInt ≥ y.toInt then x.toInt else y.toInt) c = if x.slt y then y else x := by
  rw [← apply_ite, clampI16_toInt]
  simp only [BitVec.slt_iff_toInt_lt, ge_iff_le, ← not_lt, ite_not]

/-- The lesser unsigned field is selected, and no clamp changes it (R149). -/
theorem clampU16_min : clampU16 (if x.toNat ≤ y.toNat then x.toNat else y.toNat) c = if y.ult x then y else x := by
  rw [← apply_ite (fun v : Half => (v.toNat : Int)), clampU16_toNat]
  simp only [BitVec.ult_iff_toNat_lt, ← not_lt, ite_not]

/-- The greater unsigned field is selected, and no clamp changes it (R150). -/
theorem clampU16_max : clampU16 (if x.toNat ≥ y.toNat then x.toNat else y.toNat) c = if x.ult y then y else x := by
  rw [← apply_ite (fun v : Half => (v.toNat : Int)), clampU16_toNat]
  simp only [BitVec.ult_iff_toNat_lt, ge_iff_le, ← not_lt, ite_not]

end Clamps

section Shifts

variable {n : Nat} (k : Nat) (y : BitVec n)

/-- The low bits of a product by a power of two are those of the left shift (R151). -/
theorem trunc_toNat_mul_two_pow : trunc n (y.toNat * 2 ^ k) = y <<< k := by
  have hnat : (y.toNat : Int) * 2 ^ k = (y.toNat * 2 ^ k : Nat) := by push_cast; rfl
  apply BitVec.eq_of_toNat_eq
  rw [hnat, trunc, BitVec.ofInt_natCast, BitVec.toNat_ofNat, BitVec.toNat_shiftLeft, Nat.shiftLeft_eq]

/-- The floor of the unsigned quotient by a power of two is the logical right shift (R152). -/
theorem trunc_toNat_div_two_pow : trunc n (y.toNat / 2 ^ k) = y >>> k := by
  rw [← trunc_toNat_self (y >>> k), BitVec.toNat_ushiftRight, Nat.shiftRight_eq_div_pow]
  push_cast
  rfl

/-- The floor of the signed quotient by a power of two is the arithmetic right shift (R153). -/
theorem trunc_toInt_div_two_pow : trunc n (y.toInt / 2 ^ k) = y.sshiftRight k := by
  rw [← trunc_toInt_self (y.sshiftRight k), BitVec.toInt_sshiftRight, Int.shiftRight_eq_div_pow]
  push_cast
  rfl

end Shifts

/-- The shift count is the low 4 bits of its field (R151). -/
theorem shiftCount_eq (x : Half) : shiftCount x = (x &&& 0xF#16).toNat :=
  (Nat.and_two_pow_sub_one_eq_mod x.toNat 4).symm

theorem trunc_toNat_mul_shiftCount (x y : Half) :
    trunc 16 (y.toNat * 2 ^ shiftCount x) = y <<< (x &&& 0xF#16).toNat := by
  rw [trunc_toNat_mul_two_pow, shiftCount_eq]

theorem trunc_toNat_div_shiftCount (x y : Half) :
    trunc 16 (y.toNat / 2 ^ shiftCount x) = y >>> (x &&& 0xF#16).toNat := by
  rw [trunc_toNat_div_two_pow, shiftCount_eq]

theorem trunc_toInt_div_shiftCount (x y : Half) :
    trunc 16 (y.toInt / 2 ^ shiftCount x) = y.sshiftRight (x &&& 0xF#16).toNat := by
  rw [trunc_toInt_div_two_pow, shiftCount_eq]

/-- The half-precision unit clamp with its bounds 1.0 and +0.0 written out (R76). -/
theorem hclamp16_eq (x : Half) (c : Bool) :
    hclamp16 x c = if c then fpMax16 (fpMin16 x 0x3C00#16) 0x0000#16 else x := rfl

/-- Settles O30: the clamped multiply-add of the signed fields. -/
theorem pkMadI16Result : Obligations.PkMadI16Result := fun f _ hx =>
  ⟨Laws.OpcodeByte.low_byte _ _, completes_of_exec_eq_perField3 hx (clampI16_mul_add f.clamp) rfl⟩

/-- Settles O31: the low bits of the unsigned product are the product of the fields. -/
theorem pkMulLoU16Result : Obligations.PkMulLoU16Result := fun _ _ hx =>
  ⟨Laws.OpcodeByte.low_byte _ _, completes_of_exec_eq_perField2 hx trunc_toNat_mul_toNat rfl⟩

/-- Settles O32: the clamped sum of the signed fields. -/
theorem pkAddI16Result : Obligations.PkAddI16Result := fun f _ hx =>
  ⟨Laws.OpcodeByte.low_byte _ _, completes_of_exec_eq_perField2 hx (clampI16_add f.clamp) rfl⟩

/-- Settles O33: the clamped difference of the signed fields. -/
theorem pkSubI16Result : Obligations.PkSubI16Result := fun f _ hx =>
  ⟨Laws.OpcodeByte.low_byte _ _, completes_of_exec_eq_perField2 hx (clampI16_sub f.clamp) rfl⟩

/-- Settles O34: the clamped sum of the unsigned fields. -/
theorem pkAddU16Result : Obligations.PkAddU16Result := fun f _ hx =>
  ⟨Laws.OpcodeByte.low_byte _ _, completes_of_exec_eq_perField2 hx (clampU16_add f.clamp) rfl⟩

/-- Settles O35: the clamped difference of the unsigned fields. -/
theorem pkSubU16Result : Obligations.PkSubU16Result := fun f _ hx =>
  ⟨Laws.OpcodeByte.low_byte _ _, completes_of_exec_eq_perField2 hx (clampU16_sub f.clamp) rfl⟩

/-- Settles O36: the selected signed field passes the clamp. -/
theorem pkMinI16Result : Obligations.PkMinI16Result := fun f _ hx =>
  ⟨Laws.OpcodeByte.low_byte _ _, completes_of_exec_eq_perField2 hx (clampI16_min f.clamp) rfl⟩

/-- Settles O37: the selected signed field passes the clamp. -/
theorem pkMaxI16Result : Obligations.PkMaxI16Result := fun f _ hx =>
  ⟨Laws.OpcodeByte.low_byte _ _, completes_of_exec_eq_perField2 hx (clampI16_max f.clamp) rfl⟩

/-- Settles O38: the selected unsigned field passes the clamp. -/
theorem pkMinU16Result : Obligations.PkMinU16Result := fun f _ hx =>
  ⟨Laws.OpcodeByte.low_byte _ _, completes_of_exec_eq_perField2 hx (clampU16_min f.clamp) rfl⟩

/-- Settles O39: the selected unsigned field passes the clamp. -/
theorem pkMaxU16Result : Obligations.PkMaxU16Result := fun f _ hx =>
  ⟨Laws.OpcodeByte.low_byte _ _, completes_of_exec_eq_perField2 hx (clampU16_max f.clamp) rfl⟩

/-- Settles O40: the product by a power of two is a shift. -/
theorem pkLshlrevB16Result : Obligations.PkLshlrevB16Result := fun _ _ hx =>
  ⟨Laws.OpcodeByte.low_byte _ _, completes_of_exec_eq_perField2 hx trunc_toNat_mul_shiftCount rfl⟩

/-- Settles O41: the unsigned quotient by a power of two is a shift. -/
theorem pkLshrrevB16Result : Obligations.PkLshrrevB16Result := fun _ _ hx =>
  ⟨Laws.OpcodeByte.low_byte _ _, completes_of_exec_eq_perField2 hx trunc_toNat_div_shiftCount rfl⟩

/-- Settles O42: the signed quotient by a power of two is a shift. -/
theorem pkAshrrevI16Result : Obligations.PkAshrrevI16Result := fun _ _ hx =>
  ⟨Laws.OpcodeByte.low_byte _ _, completes_of_exec_eq_perField2 hx trunc_toInt_div_shiftCount rfl⟩

/-- Settles O43: the unit clamp of the rounded sum. -/
theorem pkAddF16Result : Obligations.PkAddF16Result := fun f _ hx =>
  ⟨Laws.OpcodeByte.low_byte _ _,
    completes_of_exec_eq_perField2 hx (fun x y => hclamp16_eq (fpAdd16 x y) f.clamp) rfl⟩

/-- Settles O44: the unit clamp of the rounded product. -/
theorem pkMulF16Result : Obligations.PkMulF16Result := fun f _ hx =>
  ⟨Laws.OpcodeByte.low_byte _ _,
    completes_of_exec_eq_perField2 hx (fun x y => hclamp16_eq (fpMul16 x y) f.clamp) rfl⟩

/-- Settles O45: the unit clamp of the minimum, source 0 first. -/
theorem pkMinF16Result : Obligations.PkMinF16Result := fun f _ hx =>
  ⟨Laws.OpcodeByte.low_byte _ _,
    completes_of_exec_eq_perField2 hx (fun x y => hclamp16_eq (fpMin16 x y) f.clamp) rfl⟩

/-- Settles O46: the unit clamp of the maximum, source 0 first. -/
theorem pkMaxF16Result : Obligations.PkMaxF16Result := fun f _ hx =>
  ⟨Laws.OpcodeByte.low_byte _ _,
    completes_of_exec_eq_perField2 hx (fun x y => hclamp16_eq (fpMax16 x y) f.clamp) rfl⟩

/-- Settles O47: the unit clamp of the product and sum rounded once. -/
theorem pkFmaF16Result : Obligations.PkFmaF16Result := fun f _ hx =>
  ⟨Laws.OpcodeByte.low_byte _ _,
    completes_of_exec_eq_perField3 hx (fun x y z => hclamp16_eq (fpFma16 x y z) f.clamp) rfl⟩

end Sys2Proof.Machine

/-! PROOFS. The dual-float commands (46_packed32_dual_float.md): the operand each result half takes from a source (R171 to
R173), and each command leaves its two results in the pair of destination rows (R170, R131). -/

namespace Sys2Proof.Machine

/-- A command that executes as the driver over `op` completes with the two halves that `op` joins (R131). -/
theorem completes_of_exec_eq_drive64 {i : Instr} {s : State} (hx : Executes i s)
    {op : Container → Container → Container → Container} (hexec : exec i s = drive64 (catalog i) i.fields s op)
    {low high : Lane → Word}
    (hop : ∀ l, op (source64 (catalog i) i.fields s 0 l) (source64 (catalog i) i.fields s 1 l)
      (source64 (catalog i) i.fields s 2 l) = join 64 [low l, high l]) :
    ∃ t, exec i s = .next t ∧ Completed64 i s t low high := by
  refine ⟨_, hexec.trans (drive64_executes hx op), completed64_commitPair i s _ fun l _ => ?_⟩
  rw [hop l]
  exact ⟨low_join _ _, high_join _ _⟩

/-- A selected half without a sign flip, in the terms of Safety.lean (R171). -/
theorem selectHalf_eq_dualOperand (v : Container) (sel : Bool) : selectHalf v sel = dualOperand v sel false :=
  halfOperand_eq_dualOperand v sel false

/-- A command that executes as a two-source dual-float operation completes with the operation's value in both halves
(R170). -/
theorem completes_of_exec_eq_dualFloat2 {i : Instr} {s : State} (hx : Executes i s) {op : Word → Word → Word}
    (hexec : exec i s = drive64 (catalog i) i.fields s fun s0 s1 _ => dualFloat2 op i.fields s0 s1) :
    ∃ t, exec i s = .next t ∧ Completed64 i s t
      (fun l => op
        (dualOperand (source64 (catalog i) i.fields s 0 l) (i.fields.opsel.getLsbD 0) (i.fields.neg.getLsbD 0))
        (dualOperand (source64 (catalog i) i.fields s 1 l) (i.fields.opsel.getLsbD 1) (i.fields.neg.getLsbD 1)))
      (fun l => op
        (dualOperand (source64 (catalog i) i.fields s 0 l) (i.fields.opselHi.getLsbD 0) (i.fields.negHi.getLsbD 0))
        (dualOperand (source64 (catalog i) i.fields s 1 l) (i.fields.opselHi.getLsbD 1) (i.fields.negHi.getLsbD 1))) :=
  completes_of_exec_eq_drive64 hx hexec fun _ => by simp only [dualFloat2, halfOperand_eq_dualOperand]

/-- A completed command responds `OK_WARN` exactly when it warns (R60, R200). -/
theorem Reported.resp_eq_okWarn_iff {i : Instr} {s t : State} (h : Reported i s t) :
    t.resp = some { code := 1#2, cause := 1#4 } ↔ warns (catalog i) i.fields = true := by
  obtain ⟨_, hstatus, _⟩ := h
  cases hw : warns (catalog i) i.fields
  · rw [hw, if_neg Bool.false_ne_true] at hstatus
    obtain ⟨_, hok⟩ := hstatus
    simp [hok]
  · rw [hw, if_pos rfl] at hstatus
    obtain ⟨_, _, _, _, hwarn⟩ := hstatus
    simp [hwarn]

/-- The copy warns exactly when a sign flip is asked for (R176, R197). -/
theorem warns_pkMovB32_iff (f : Fields) : warns (catalog (.pkMovB32 f)) f = true ↔ f.neg ≠ 0#3 ∨ f.negHi ≠ 0#3 :=
  (warns_iff (.pkMovB32 f)).trans (and_iff_left fun _ => by simp)

/-- Settles O55: every operand of a half is selected and flipped alike; the flip bit of source 0 is bit 0 for either
value of the parameter. -/
theorem pkFmaF32Result : Obligations.PkFmaF32Result := fun f s hx =>
  have hexec : exec (.pkFmaF32 f) s =
      drive64 (catalog (.pkFmaF32 f)) f s (dualFloat3 fpFma32 s.params.pkfmaNegBit0Only f) := rfl
  ⟨Laws.OpcodeByte.low_byte _ _, completes_of_exec_eq_drive64 hx hexec fun _ => by
    simp only [dualFloat3, halfOperand_eq_dualOperand, fmaNegBit, ite_self, Instr.fields]⟩

/-- Settles O56: the dual-float operation is `FP.mul32`. -/
theorem pkMulF32Result : Obligations.PkMulF32Result := fun _ _ hx =>
  ⟨Laws.OpcodeByte.low_byte _ _, completes_of_exec_eq_dualFloat2 (op := fpMul32) hx rfl⟩

/-- Settles O57: the dual-float operation is `FP.add32`. -/
theorem pkAddF32Result : Obligations.PkAddF32Result := fun _ _ hx =>
  ⟨Laws.OpcodeByte.low_byte _ _, completes_of_exec_eq_dualFloat2 (op := fpAdd32) hx rfl⟩

/-- Settles O58: the halves are joined as selected, and a flip asked for is dropped with a warning. -/
theorem pkMovB32Result : Obligations.PkMovB32Result := by
  intro f s hx
  have hexec : exec (.pkMovB32 f) s = drive64 (catalog (.pkMovB32 f)) f s fun s0 s1 _ =>
      join 64 [dualOperand s0 (f.opsel.getLsbD 0) false, dualOperand s1 (f.opselHi.getLsbD 1) false] := by
    simp only [← selectHalf_eq_dualOperand]
    rfl
  obtain ⟨t, ht, hdone⟩ := completes_of_exec_eq_drive64 hx hexec fun _ => rfl
  have ⟨_, _, hreported⟩ := hdone
  exact ⟨Laws.OpcodeByte.low_byte _ _, t, ht, hdone, (hreported.resp_eq_okWarn_iff.trans (warns_pkMovB32_iff f)).symm⟩

end Sys2Proof.Machine

/-! PROOFS. The accumulator bridge (47_acc_bridge.md): the rows the two copies address and the value they move, from
which follow what each copies (R186, R187) and when it is illegal (R199). -/

namespace Sys2Proof.Machine

/-- Illegal operands abort the command with the cause of an illegal command (R199, R201). -/
theorem aborts_of_not_operandsLegal {i : Instr} {s : State} (hh : s.halted = false) (h : ¬ OperandsLegal i s) :
    ∃ t, exec i s = .next t ∧ Aborted 3#4 s t :=
  ⟨_, exec_of_fatalCause hh (fatalCause_of_illegal h), aborted_raiseFatal s .illegalCommand⟩

/-- A command that executes as the copy of source 0 leaves its value in every active lane of the destination. -/
theorem completes_of_exec_eq_copy {i : Instr} {s : State} (hx : Executes i s)
    (hexec : exec i s = drive32 (catalog i) i.fields s fun s0 _ _ => s0) {value : Lane → Word}
    (hvalue : ∀ l, source32 (catalog i) i.fields s 0 l = value l) :
    ∃ t, exec i s = .next t ∧ Completed32 i s t fun l v => v = value l :=
  completes_of_exec_eq_drive32 hx hexec hvalue

section Bridge

variable (f : Fields) (s : State)

@[simp] theorem sourceRow_accRead :
    sourceRow (catalog (.accRead f)) f s 0 = f.src0 + s.inputs.accOffset.toNat := rfl

@[simp] theorem destRow_accRead : destRow (catalog (.accRead f)) f s = f.vdst := rfl

@[simp] theorem sourceRow_accWrite : sourceRow (catalog (.accWrite f)) f s 0 = f.src0 := rfl

@[simp] theorem destRow_accWrite :
    destRow (catalog (.accWrite f)) f s = f.vdst + s.inputs.accOffset.toNat := rfl

/-- Source 0 of `ACC_READ` is a row of the window, never uniform (R186). -/
theorem operandsLegal_accRead_iff : OperandsLegal (.accRead f) s ↔
    f.u0 = false ∧ f.src0 + s.inputs.accOffset.toNat < s.params.nreg ∧ f.vdst < s.params.nreg := by
  constructor
  · rintro ⟨hacc, hsrc, hdst⟩
    exact ⟨hacc rfl, hsrc 0 Nat.one_pos (hacc rfl), hdst⟩
  · rintro ⟨hu, hsrc, hdst⟩
    refine ⟨fun _ => hu, fun k hk _ => ?_, hdst⟩
    obtain rfl : k = 0 := Nat.lt_one_iff.1 hk
    exact hsrc

/-- Source 0 of `ACC_WRITE` is an ordinary row unless it is uniform, and the destination a row of the window (R187). -/
theorem operandsLegal_accWrite_iff : OperandsLegal (.accWrite f) s ↔
    (f.u0 = false → f.src0 < s.params.nreg) ∧ f.vdst + s.inputs.accOffset.toNat < s.params.nreg := by
  constructor
  · rintro ⟨_, hsrc, hdst⟩
    exact ⟨hsrc 0 Nat.one_pos, hdst⟩
  · rintro ⟨hsrc, hdst⟩
    refine ⟨fun hacc => absurd hacc Bool.false_ne_true, fun k hk hu => ?_, hdst⟩
    obtain rfl : k = 0 := Nat.lt_one_iff.1 hk
    exact hsrc hu

variable {f s}

theorem source32_accRead (hu : f.u0 = false) (l : Lane) : source32 (catalog (.accRead f)) f s 0 l =
    s.vr.read (f.src0 + s.inputs.accOffset.toNat) l := by
  simp [source32, srcUniform, hu]

theorem source32_accWrite (l : Lane) : source32 (catalog (.accWrite f)) f s 0 l =
    if f.u0 then s.inputs.uval0.setWidth 32 else s.vr.read f.src0 l := by
  simp [source32, srcUniform, uniformValue, BitVec.setWidth_eq_extractLsb']

end Bridge

/-- Settles O59: the operands are legal exactly when the copy's conditions on them hold, and each of the three listed
breaks one of them. -/
theorem accReadCopiesFromTheWindow : Obligations.AccReadCopiesFromTheWindow := by
  intro f s hh
  refine ⟨Laws.OpcodeByte.low_byte _ _, fun hu hsrc hdst hmode => ?_, fun hill => ?_⟩
  · have hx : Executes (.accRead f) s := ⟨hh, (operandsLegal_accRead_iff f s).2 ⟨hu, hsrc, hdst⟩, hmode⟩
    obtain ⟨t, ht, hdone⟩ := completes_of_exec_eq_copy hx rfl (source32_accRead hu)
    exact ⟨t, ht, destRow_accRead f s, hdone⟩
  · refine aborts_of_not_operandsLegal hh fun hlegal => ?_
    obtain ⟨hu, hsrc, hdst⟩ := (operandsLegal_accRead_iff f s).1 hlegal
    rcases hill with hu' | hsrc' | hdst'
    · exact Bool.eq_false_iff.1 hu hu'
    · exact Nat.not_lt_of_ge hsrc' hsrc
    · exact Nat.not_lt_of_ge hdst' hdst

/-- Settles O60: as for `ACC_READ`, with a uniform source 0 legal whatever `SRC0` is. -/
theorem accWriteCopiesToTheWindow : Obligations.AccWriteCopiesToTheWindow := by
  intro f s hh
  refine ⟨Laws.OpcodeByte.low_byte _ _, fun hsrc hdst hmode => ?_, fun hill => ?_⟩
  · have hrow : f.u0 = false → f.src0 < s.params.nreg := fun hu => hsrc.resolve_left (Bool.eq_false_iff.1 hu)
    have hx : Executes (.accWrite f) s := ⟨hh, (operandsLegal_accWrite_iff f s).2 ⟨hrow, hdst⟩, hmode⟩
    obtain ⟨t, ht, hdone⟩ := completes_of_exec_eq_copy hx rfl source32_accWrite
    exact ⟨t, ht, destRow_accWrite f s, hdone⟩
  · refine aborts_of_not_operandsLegal hh fun hlegal => ?_
    obtain ⟨hsrc, hdst⟩ := (operandsLegal_accWrite_iff f s).1 hlegal
    rcases hill with ⟨hu, hsrc'⟩ | hdst'
    · exact Nat.not_lt_of_ge hsrc' (hsrc hu)
    · exact Nat.not_lt_of_ge hdst' hdst

end Sys2Proof.Machine

/-! PROOFS. The outcomes of a command (60_exceptions.md): every step keeps the invariant (R206), the checks are made in
the order of R202, UMOD is fatal where it is reached (R198), and a meaningless NEG or NEG_HI only warns (R197, R200). -/

namespace Sys2Proof.Machine

/-- The register rows in canonical form, all of them below `n`. -/
def RegFile.Within (f : RegFile) (n : Nat) : Prop := f.WF ∧ ∀ c ∈ f.cells, c.row < n

section Within

variable {f : RegFile} {n r : Nat}

theorem RegFile.Within.write (h : f.Within n) (hr : r < n) (l : Lane) (v : Word) : (f.write r l v).Within n := by
  obtain ⟨hwf, hrows⟩ := h
  refine ⟨RegFile.write_WF hwf r l v, fun c hc => ?_⟩
  rcases RegFile.write_rows hc with rfl | hc
  · exact hr
  · exact hrows c hc

theorem RegFile.Within.commitRow (h : f.Within n) (hr : r < n) (ls : List Lane) (g : Lane → Word) :
    (f.commitRow r ls g).Within n := by
  obtain ⟨hwf, hrows⟩ := h
  refine ⟨RegFile.commitRow_WF hwf r ls g, fun c hc => ?_⟩
  rcases RegFile.commitRow_rows hc with rfl | hc
  · exact hr
  · exact hrows c hc

theorem RegFile.Within.commitPair (h : f.Within n) (hr : r + 1 < n) (ls : List Lane) (g : Lane → Container) :
    (f.commitPair r ls g).Within n := by
  obtain ⟨hwf, hrows⟩ := h
  refine ⟨RegFile.commitPair_WF hwf r ls g, fun c hc => ?_⟩
  rcases RegFile.commitPair_rows hc with hc | hc | hc
  · omega
  · omega
  · exact hrows c hc

end Within

/-- Every command is the driver's run over committed rows that exist where its destination does (R36, R131). -/
theorem exec_runs_within (i : Instr) (s : State) : ∃ v, exec i s = runCommand (catalog i) i.fields s v ∧
    ∀ n, s.vr.Within n → destRow (catalog i) i.fields s + extraRows (catalog i) < n → v.Within n := by
  rcases exec_drives i with ⟨hw, op, hop⟩ | ⟨hw, op, hop⟩
  · have hextra : extraRows (catalog i) = 0 := by simp [extraRows, hw]
    exact ⟨_, hop s, fun n h hdst => h.commitRow (by omega) _ _⟩
  · have hextra : extraRows (catalog i) = 1 := by simp [extraRows, hw]
    exact ⟨_, hop s, fun n h hdst => h.commitPair (by omega) _ _⟩

theorem pstatReservedClear_afterWarning (p : Word) :
    pstatReservedClear (pstatAfterWarning p) = pstatReservedClear p := by
  simp only [pstatReservedClear, pstat_mask_afterWarning]

theorem pstatReservedClear_afterFatal (p : Word) (c : Cause) :
    pstatReservedClear (pstatAfterFatal p c) = pstatReservedClear p := by
  have hmask (q : Word) : q &&& 0xFFFFFF0C#32 = (q &&& 0xFFFFFF0D#32) &&& 0xFFFFFF0C#32 := by
    rw [BitVec.and_assoc]
    rfl
  simp only [pstatReservedClear, hmask (pstatAfterFatal p c), hmask p, pstat_mask_afterFatal]

/-- A warning on a block that is not halted leaves WARN and cause 1 (R200). -/
theorem PstatLegal.afterWarning {p : Word} (h : PstatLegal p) (hf : pstatFatal p = false) :
    PstatLegal (pstatAfterWarning p) := by
  obtain ⟨hreserved, _⟩ := h
  refine ⟨(pstatReservedClear_afterWarning p).trans hreserved, ?_⟩
  simp [hf, pstatCause_afterWarning hf, Cause.code]

/-- A fatal fault leaves FATAL and its own cause (R201). -/
theorem PstatLegal.afterFatal {p : Word} {c : Cause} (h : PstatLegal p)
    (hc : c = .illegalCommand ∨ c = .unsupportedMode) : PstatLegal (pstatAfterFatal p c) := by
  obtain ⟨hreserved, _⟩ := h
  refine ⟨(pstatReservedClear_afterFatal p c).trans hreserved, ?_⟩
  rcases hc with rfl | rfl <;> simp [Cause.code]

/-- Completion does not halt the block and does not end its halted state (R200). -/
@[simp] theorem State.complete_halted (s : State) (w : Bool) (v : RegFile) : (s.complete w v).halted = s.halted := by
  cases w
  · rfl
  · exact pstatFatal_afterWarning s.pstat

section Invariant

variable {s : State}

/-- Accepting a command keeps the invariant, which is not about the inputs. -/
theorem State.Inv.accept (h : s.Inv) (i : Inputs) (rest : List CallerInput) : (s.accept i rest).Inv := h

/-- Reset clears the status and the response together (R221). -/
theorem State.Inv.applyReset (h : s.Inv) : s.applyReset.Inv := by
  obtain ⟨hwf, hrows, hparams, _, _⟩ := h
  exact ⟨hwf, hrows, hparams, pstatLegal_zero, rfl⟩

/-- A caller's write to a row that exists keeps the invariant (R36). -/
theorem State.Inv.write (h : s.Inv) {r : Nat} (hr : r < s.params.nreg) (l : Lane) (v : Word) :
    State.Inv { s with vr := s.vr.write r l v } := by
  obtain ⟨hwf, hrows, hrest⟩ := h
  obtain ⟨hwf', hrows'⟩ := RegFile.Within.write ⟨hwf, hrows⟩ hr l v
  exact ⟨hwf', hrows', hrest⟩

/-- A fatal fault records its cause in the status and in the response alike (R201). -/
theorem State.Inv.raiseFatal (h : s.Inv) {c : Cause} (hc : c = .illegalCommand ∨ c = .unsupportedMode) :
    (s.raiseFatal c).Inv := by
  obtain ⟨hwf, hrows, hparams, hpstat, _⟩ := h
  refine ⟨hwf, hrows, hparams, hpstat.afterFatal hc, .inr (.inr ⟨rfl, ?_, State.raiseFatal_halted s c⟩)⟩
  exact (pstatCause_afterFatal s.pstat c).symm

/-- A completed command records a warning in the status and in the response alike (R200). -/
theorem State.Inv.complete (h : s.Inv) (hh : s.halted = false) {v : RegFile} (hv : v.Within s.params.nreg) (w : Bool) :
    (s.complete w v).Inv := by
  obtain ⟨_, _, hparams, hpstat, _⟩ := h
  obtain ⟨hwf, hrows⟩ := hv
  have hlive : (s.complete w v).halted = false := (State.complete_halted s w v).trans hh
  cases w
  · exact ⟨hwf, hrows, hparams, hpstat, .inl ⟨rfl, hlive⟩⟩
  · have hwarn : pstatWarn (s.complete true v).pstat = true := pstatWarn_afterWarning s.pstat
    exact ⟨hwf, hrows, hparams, hpstat.afterWarning hh, .inr (.inl ⟨rfl, hlive, hwarn⟩)⟩

/-- A command keeps the invariant and the parameters, whether it is aborted or completes. -/
theorem State.Inv.exec (h : s.Inv) {i : Instr} {t : State} (hexec : exec i s = .next t) :
    t.Inv ∧ t.params = s.params := by
  obtain ⟨v, hrun, hwithin⟩ := exec_runs_within i s
  rw [hrun] at hexec
  obtain ⟨hh, ⟨c, hc, rfl⟩ | ⟨hc, rfl⟩⟩ := runCommand_next hexec
  · exact ⟨h.raiseFatal (fatalCause_fatal hc), rfl⟩
  · obtain ⟨_, hrange, _⟩ := fatalCause_none hc
    have ⟨hwf, hrows, _⟩ := h
    exact ⟨h.complete hh (hwithin _ ⟨hwf, hrows⟩ (destRow_lt hrange)) _, rfl⟩

end Invariant

/-- Settles O21: each of the four actions a step can take keeps the invariant. -/
theorem everyStepKeepsTheInvariant : Obligations.EveryStepKeepsTheInvariant := by
  intro s t h hstep
  rcases step_next hstep with ⟨rest, _, rfl⟩ | ⟨r, l, v, rest, _, hr, rfl⟩ | ⟨c, rest, _, _, _, rfl⟩ |
    ⟨c, rest, i, _, _, hexec⟩
  · exact ⟨State.Inv.applyReset (s := { s with pending := rest }) h, rfl⟩
  · exact ⟨State.Inv.write (s := { s with pending := rest }) h hr l v, rfl⟩
  · exact ⟨(h.accept c.inputs rest).raiseFatal (.inl rfl), rfl⟩
  · exact (h.accept c.inputs rest).exec hexec

/-- The mode check is the one that fires exactly on a command with legal operands and UMOD set (R198). -/
theorem fatalCause_eq_unsupportedMode_iff (i : Instr) (s : State) :
    fatalCause (catalog i) i.fields s = some .unsupportedMode ↔ OperandsLegal i s ∧ i.fields.umod = true := by
  refine ⟨fun h => ?_, fun ⟨hlegal, hu⟩ => fatalCause_of_umod hlegal hu⟩
  have hlegal : OperandsLegal i s := by
    by_contra hnot
    rw [fatalCause_of_illegal hnot] at h
    cases h
  refine ⟨hlegal, ?_⟩
  obtain ⟨hacc, hrange⟩ := (operandsLegal_iff i s).1 hlegal
  simpa [fatalCause, hacc, hrange] using h

/-- Settles O11: the mode check comes last, and it alone answers cause 2. -/
theorem microModifierModeIsFatal : Obligations.MicroModifierModeIsFatal := by
  refine ⟨fun i s hh hlegal hu => ?_, fun i s t h hresp => ?_⟩
  · exact ⟨_, exec_of_fatalCause hh (fatalCause_of_umod hlegal hu), State.raiseFatal_halted _ _,
      aborted_raiseFatal s .unsupportedMode⟩
  · rcases exec_next h with ⟨c, _, hc, rfl⟩ | ⟨_, v, rfl⟩
    · rcases fatalCause_fatal hc with rfl | rfl
      · simp [Response.fatal, Cause.code] at hresp
      · exact (fatalCause_eq_unsupportedMode_iff i s).1 hc
    · rw [State.complete_resp] at hresp
      split at hresp <;> simp [Response.okWarn, Response.ok] at hresp

/-- The fields with both sign-flip modifiers 0. -/
def withoutFlips (f : Fields) : Fields := { f with neg := 0#3, negHi := 0#3 }

/-- Where the sign flips have no meaning, the rows the driver commits do not depend on NEG and NEG_HI (R200). -/
theorem exec_withoutFlips_same_rows {i : Instr} (h : (catalog i).signFlips = false) (s : State) :
    ∃ v, exec i s = runCommand (catalog i) i.fields s v ∧
      exec (i.withFields (withoutFlips i.fields)) s = runCommand (catalog i) (withoutFlips i.fields) s v := by
  cases i
  case pkFmaF32 | pkMulF32 | pkAddF32 => cases h
  all_goals exact ⟨_, rfl, rfl⟩

/-- The driver on a command that executes. -/
theorem runCommand_completes {sh : Shape} {f : Fields} {s : State} (hh : s.halted = false)
    (hc : fatalCause sh f s = none) (v : RegFile) : runCommand sh f s v = .next (s.complete (warns sh f) v) := by
  simp only [runCommand, hh, hc, Bool.false_eq_true, if_false]

/-- Without a modifier there is no warning (R197). -/
theorem warns_withoutFlips (sh : Shape) (f : Fields) : warns sh (withoutFlips f) = false := by
  simp [warns, withoutFlips]

/-- Settles O12: both commands complete over the same rows, the first with the warning. -/
theorem warningExecutesAsWithoutModifier : Obligations.WarningExecutesAsWithoutModifier := by
  refine ⟨fun i s hx hset hflips => ?_, fun i s t h hresp => ?_⟩
  · obtain ⟨hh, hc⟩ := (executes_iff i s).1 hx
    have hwarns : warns (catalog i) i.fields = true := (warns_iff i).2 ⟨hset, hflips⟩
    obtain ⟨v, hexec, hexec'⟩ := exec_withoutFlips_same_rows ((signFlips_eq_false_iff i).2 hflips) s
    rw [runCommand_completes hh hc, hwarns] at hexec
    have hc' : fatalCause (catalog i) (withoutFlips i.fields) s = none := hc
    rw [runCommand_completes hh hc', warns_withoutFlips] at hexec'
    exact ⟨_, _, hexec, hexec', rfl, rfl, pstatWarn_afterWarning _, pstatCause_afterWarning,
      (State.complete_halted s true v).trans hh, rfl, rfl, rfl⟩
  · rcases exec_next h with ⟨c, _, _, rfl⟩ | ⟨hx, v, rfl⟩
    · simp [Response.fatal] at hresp
    · have hwarns := (reported_complete i s v).resp_eq_okWarn_iff.1 hresp
      exact ⟨hx, (warns_iff i).1 hwarns⟩

/-- What a response says of the state before a command and the state after it: `FATAL` that the command was aborted, any
other that the position advanced by one and the block is not halted (R60, R202). -/
def Follows (r : Response) (s t : State) : Prop :=
  t.resp = some r ∧ if r.code = 2#2 then Aborted r.cause s t else t.position = s.position + 1 ∧ t.halted = false

theorem follows_raiseFatal (s : State) (c : Cause) : Follows (Response.fatal c) s (s.raiseFatal c) :=
  ⟨rfl, (if_pos rfl).mpr (aborted_raiseFatal s c)⟩

theorem follows_complete {s : State} (hh : s.halted = false) (w : Bool) (v : RegFile) :
    Follows (if w then Response.okWarn else Response.ok) s (s.complete w v) := by
  refine ⟨rfl, ?_⟩
  rw [if_neg (by cases w <;> decide)]
  exact ⟨rfl, (State.complete_halted s w v).trans hh⟩

/-- The response that the driver's checks and the warning's condition give a command (R202 steps 3 to 7). -/
def driverResponse (sh : Shape) (f : Fields) (s : State) : Response :=
  match fatalCause sh f s with
  | some c => Response.fatal c
  | none => if warns sh f then Response.okWarn else Response.ok

/-- A command presented to a block that is not halted has a next state, and responds as its checks say. -/
theorem exec_follows_driverResponse (i : Instr) {s : State} (hh : s.halted = false) :
    ∃ t, exec i s = .next t ∧ Follows (driverResponse (catalog i) i.fields s) s t := by
  obtain ⟨v, hrun⟩ := exec_runs i s
  unfold driverResponse
  cases hc : fatalCause (catalog i) i.fields s with
  | some c => exact ⟨_, exec_of_fatalCause hh hc, follows_raiseFatal s c⟩
  | none => exact ⟨_, hrun.trans (runCommand_completes hh hc v), follows_complete hh _ v⟩

section WordFields

variable (w : CommandWord)

theorem srcUniform_fieldsOf {k : Nat} (hk : k < 3) : srcUniform (fieldsOf w) k = w.getLsbD (56 + k) := by
  interval_cases k <;> rfl

theorem srcField_fieldsOf {k : Nat} (hk : k < 3) :
    srcField (fieldsOf w) k = (w.extractLsb' (32 + 8 * k) 8).toNat := by
  interval_cases k <;> rfl

/-- NEG and NEG_HI are neighbours in the word (R46). -/
theorem flips_fieldsOf_iff :
    w.extractLsb' 15 6 ≠ 0#6 ↔ (fieldsOf w).neg ≠ 0#3 ∨ (fieldsOf w).negHi ≠ 0#3 := by
  have hneg : (fieldsOf w).neg = (w.extractLsb' 15 6).extractLsb' 0 3 := by
    ext k hk
    simp [fieldsOf, show k < 6 by omega]
  have hnegHi : (fieldsOf w).negHi = (w.extractLsb' 15 6).extractLsb' 3 3 := by
    ext k hk
    simp [fieldsOf, show 3 + k < 6 by omega, show 15 + (3 + k) = 18 + k by omega]
  rw [hneg, hnegHi]
  generalize w.extractLsb' 15 6 = v
  revert v
  decide

end WordFields

section Catalog

variable (i : Instr)

theorem arity_eq_arityOfOp : (catalog i).arity = arityOfOp (opOf i).toNat := by cases i <;> rfl

theorem extraRows_eq : extraRows (catalog i) = if 0x30 ≤ (opOf i).toNat ∧ (opOf i).toNat ≤ 0x33 then 1 else 0 := by
  cases i <;> rfl

theorem accSource_eq : (catalog i).accSource = decide ((opOf i).toNat = 0x40) := by cases i <;> rfl

theorem accDest_eq : (catalog i).accDest = decide ((opOf i).toNat = 0x41) := by cases i <;> rfl

theorem signFlips_eq : (catalog i).signFlips = decide (0x30 ≤ (opOf i).toNat ∧ (opOf i).toNat ≤ 0x32) := by
  cases i <;> rfl

/-- Only source 0 of a command can be an accumulator register (R49). -/
theorem eq_zero_of_accSource (h : (catalog i).accSource = true) {k : Nat} (hk : k < (catalog i).arity) : k = 0 := by
  cases i
  case accRead => exact Nat.lt_one_iff.1 hk
  all_goals cases h

/-- The row check runs over the sources the command has (R56). -/
theorem rowOutOfRange_eq_any (f : Fields) (s : State) : rowOutOfRange (catalog i) f s =
    ((List.range (catalog i).arity).any (sourceOutOfRange (catalog i) f s) || destOutOfRange (catalog i) f s) := by
  have harity := arity_le_three i
  generalize catalog i = sh at harity
  obtain ⟨n, _, _, _, _⟩ := sh
  interval_cases n <;> simp [rowOutOfRange, sourceOutOfRange, List.range_succ, Bool.or_assoc]

end Catalog

/-- Two tests that agree on the numbers below `n` find one of them alike. -/
theorem any_range_congr {n : Nat} {p q : Nat → Bool} (h : ∀ k < n, p k = q k) :
    (List.range n).any p = (List.range n).any q := by
  rw [Bool.eq_iff_iff, List.any_eq_true, List.any_eq_true]
  exact exists_congr fun k => and_congr_right fun hk => by rw [h k (List.mem_range.1 hk)]

/-- A reserved bit is set where one of the two reserved fields is not 0 (R54). -/
theorem reservedSet_eq_true_iff (w : CommandWord) :
    reservedSet w = true ↔ w.extractLsb' 22 2 ≠ 0#2 ∨ w.extractLsb' 59 5 ≠ 0#5 := by
  simp only [reservedSet, Bool.or_eq_true, bne_iff_ne]

/-- The opcodes that R55 calls unassigned are those the opcode map leaves out. -/
theorem commandOfOp_isNone (op : BitVec 8) : (commandOfOp op).isNone = opUnassigned op.toNat := by
  revert op
  decide

section Decoded

variable {w : CommandWord} {i : Instr}

/-- The command a word decodes to has the word's opcode and fields, and the word no reserved bit set (R46, R54). -/
theorem decode_ok_reads (h : decode w = .ok i) :
    reservedSet w = false ∧ opOf i = w.extractLsb' 0 8 ∧ i.fields = fieldsOf w := by
  obtain ⟨hres, mk, hmk, rfl⟩ := decode_ok_iff.1 h
  exact ⟨hres, commandOfOp_some hmk (fieldsOf w)⟩

/-- The driver's row check is the one read off the bits of the word (R56). -/
theorem wordRowOutOfRange_of_decode_ok (h : decode w = .ok i) (s : State) :
    wordRowOutOfRange w s.inputs.accOffset.toNat s.params.nreg = rowOutOfRange (catalog i) i.fields s := by
  obtain ⟨-, hop, hf⟩ := decode_ok_reads h
  have harity := arity_le_three i
  have hdst : destOutOfRange (catalog i) i.fields s = decide (s.params.nreg ≤ (w.extractLsb' 24 8).toNat +
      (if (opOf i).toNat = 0x41 then s.inputs.accOffset.toNat else 0) + extraRows (catalog i)) := by
    simp only [destOutOfRange, destRow, accDest_eq, hf, decide_eq_true_eq, fieldsOf]
  have hsrc k (hk : k < (catalog i).arity) : sourceOutOfRange (catalog i) i.fields s k = (!w.getLsbD (56 + k) &&
      decide (s.params.nreg ≤ (w.extractLsb' (32 + 8 * k) 8).toNat +
        (if (opOf i).toNat = 0x40 then s.inputs.accOffset.toNat else 0) + extraRows (catalog i))) := by
    have hwindow : ((catalog i).accSource && k == 0) = decide ((opOf i).toNat = 0x40) := by
      rw [← accSource_eq]
      cases hacc : (catalog i).accSource
      · rfl
      · simp [eq_zero_of_accSource i hacc hk]
    have hk3 : k < 3 := by omega
    simp only [sourceOutOfRange, sourceRow, hwindow, hk, hf, srcUniform_fieldsOf w hk3, srcField_fieldsOf w hk3,
      decide_eq_true_eq, decide_true, Bool.true_and]
  rw [rowOutOfRange_eq_any, hdst, any_range_congr hsrc, arity_eq_arityOfOp, extraRows_eq, hop]
  rfl

/-- The warning's condition is the one read off the bits of the word (R197). -/
theorem warns_iff_of_decode_ok (h : decode w = .ok i) : warns (catalog i) i.fields = true ↔
    w.extractLsb' 15 6 ≠ 0#6 ∧ ¬ (0x30 ≤ (w.extractLsb' 0 8).toNat ∧ (w.extractLsb' 0 8).toNat ≤ 0x32) := by
  obtain ⟨-, hop, hf⟩ := decode_ok_reads h
  rw [flips_fieldsOf_iff, warns, signFlips_eq, hop, hf]
  simp only [Bool.and_eq_true, Bool.not_eq_true', decide_eq_false_iff_not, Bool.or_eq_true, bne_iff_ne]
  exact and_comm

/-- The checks on a word of the catalog give the response of the driver's checks on its command (R202). -/
theorem responseByChecks_of_decode_ok (h : decode w = .ok i) (s : State) :
    responseByChecks w s.inputs.accOffset.toNat s.params.nreg = driverResponse (catalog i) i.fields s := by
  obtain ⟨hres, hop, hf⟩ := decode_ok_reads h
  have hreserved : ¬ (w.extractLsb' 22 2 ≠ 0#2 ∨ w.extractLsb' 59 5 ≠ 0#5) := by
    rw [← reservedSet_eq_true_iff, hres]
    exact Bool.false_ne_true
  have hassigned : ¬ opUnassigned (w.extractLsb' 0 8).toNat = true := by simp [← hop, opUnassigned_opOf]
  have huniform : ((catalog i).accSource && i.fields.u0) = true ↔
      (w.extractLsb' 0 8).toNat = 0x40 ∧ w.getLsbD 56 = true := by
    rw [accSource_eq, hop, hf, Bool.and_eq_true, decide_eq_true_eq]
    rfl
  have hmode : i.fields.umod = w.getLsbD 21 := congrArg Fields.umod hf
  simp only [responseByChecks, if_neg hreserved, if_neg hassigned, driverResponse, fatalCause, huniform,
    wordRowOutOfRange_of_decode_ok h s, hmode, ← warns_iff_of_decode_ok h]
  split_ifs <;> rfl

/-- The checks on a word that is no command of the catalog give an illegal command (R199 a, b). -/
theorem responseByChecks_of_decode_error {e : DecodeError} (h : decode w = .error e) (offset nreg : Nat) :
    responseByChecks w offset nreg = Response.fatal .illegalCommand := by
  by_cases hreserved : w.extractLsb' 22 2 ≠ 0#2 ∨ w.extractLsb' 59 5 ≠ 0#5
  · exact if_pos hreserved
  · have hunassigned : opUnassigned (w.extractLsb' 0 8).toNat = true := by
      rw [← commandOfOp_isNone]
      cases hmk : commandOfOp (w.extractLsb' 0 8) with
      | none => rfl
      | some mk =>
        rw [← reservedSet_eq_true_iff, Bool.not_eq_true] at hreserved
        rw [decode_ok_iff.2 ⟨hreserved, mk, hmk, rfl⟩] at h
        cases h
    exact (if_neg hreserved).trans (if_pos hunassigned)

end Decoded

/-- Settles O6: a word that does not decode is an illegal command, and the others meet the driver's checks. -/
theorem outcomeFollowsTheCheckOrder : Obligations.OutcomeFollowsTheCheckOrder := by
  intro s c rest hh hp
  have ht : s.toTake = .command c :: rest := (toTake_of_not_halted hh).trans hp
  cases hd : decode c.word with
  | error e =>
    rw [responseByChecks_of_decode_error hd]
    exact ⟨_, step_of_decode_error ht hd, follows_raiseFatal (s.accept c.inputs rest) .illegalCommand⟩
  | ok i =>
    have hchecks := responseByChecks_of_decode_ok hd (s.accept c.inputs rest)
    obtain ⟨t, hexec, hfollows⟩ := exec_follows_driverResponse i (s := s.accept c.inputs rest) hh
    rw [← hchecks] at hfollows
    exact ⟨t, (step_of_decode_ok ht hd).trans hexec, hfollows⟩

end Sys2Proof.Machine

/-! PROOFS. Reset and the overlap of rows (70_reset_and_hazards.md): what the reset event leaves (R220, R221), and that
the accumulator window is the storage of the ordinary rows, so that a copy of a row onto itself changes nothing (R226). -/

namespace Sys2Proof.Machine

/-- The commands presented before a reset are passed over, and the reset is not (R18). -/
theorem dropCommands_map_append_reset (cs : List Command) (rest : List CallerInput) :
    dropCommands (cs.map .command ++ .reset :: rest) = .reset :: rest := by
  induction cs with
  | nil => rfl
  | cons c cs ih => exact ih

/-- A reset that is the caller's next action is taken in every state, halted or not (R220). -/
theorem toTake_of_pending_reset {s : State} {rest : List CallerInput} (hp : s.pending = .reset :: rest) :
    s.toTake = .reset :: rest := by
  cases hh : s.halted with
  | false => exact (toTake_of_not_halted hh).trans hp
  | true => rw [toTake_halted hh, hp]; rfl

/-- A step that takes a reset is the reset event (R221). -/
theorem step_of_toTake_reset {s : State} {rest : List CallerInput} (ht : s.toTake = .reset :: rest) :
    step s = .next ({ s with pending := rest } : State).applyReset := by
  simp only [step, ht]

/-- Settles O9: in both cases reset is the action taken. -/
theorem resetClearsStatusAndKeepsRows : Obligations.ResetClearsStatusAndKeepsRows := by
  refine ⟨fun s rest hp => step_of_toTake_reset (toTake_of_pending_reset hp), fun s cs rest hh hp => ?_⟩
  have ht : s.toTake = .reset :: rest := by rw [toTake_halted hh, hp, dropCommands_map_append_reset]
  exact step_of_toTake_reset ht

/-- A completed command whose result in every active lane is what its destination held changes no row. -/
theorem Completed32.read_eq {i : Instr} {s t : State} {value : Lane → Word → Prop} (h : Completed32 i s t value)
    (hold : ∀ l v, value l v → v = s.vr.read (destRow (catalog i) i.fields s) l) (r : Nat) (l : Lane) :
    t.vr.read r l = s.vr.read r l := by
  obtain ⟨hdest, hframe, _⟩ := h
  by_cases hr : r = destRow (catalog i) i.fields s ∧ s.laneActive l
  · obtain ⟨rfl, hl⟩ := hr
    exact hold l _ (hdest l hl)
  · exact hframe r l (not_and_or.1 hr)

/-- The copy of a row onto itself is legal and changes no row (R226). -/
theorem exec_copy_onto_itself {i : Instr} {s : State} (hx : Executes i s)
    (hexec : exec i s = drive32 (catalog i) i.fields s fun s0 _ _ => s0)
    (hsame : ∀ l, source32 (catalog i) i.fields s 0 l = s.vr.read (destRow (catalog i) i.fields s) l) :
    ∃ t, exec i s = .next t ∧ ∀ r l, t.vr.read r l = s.vr.read r l := by
  obtain ⟨t, ht, hdone⟩ := completes_of_exec_eq_copy hx hexec hsame
  exact ⟨t, ht, hdone.read_eq fun _ _ hv => hv⟩

/-- `ACC_READ` reads through the window the value that the row behind it holds (R226). -/
theorem exec_accRead_reads_row {f : Fields} {s : State} (hx : Executes (.accRead f) s) {l : Lane}
    (hl : s.laneActive l) : ∃ t, exec (.accRead f) s = .next t ∧
      t.vr.read f.vdst l = s.vr.read (f.src0 + s.inputs.accOffset.toNat) l := by
  have ⟨_, hlegal, _⟩ := hx
  obtain ⟨hu, _⟩ := (operandsLegal_accRead_iff f s).1 hlegal
  obtain ⟨t, ht, hdest, _⟩ := completes_of_exec_eq_copy hx rfl (source32_accRead hu)
  exact ⟨t, ht, hdest l hl⟩

/-- A command that executes does not abort. -/
theorem exec_next_of_executes {i : Instr} {s t : State} (hx : Executes i s) (h : exec i s = .next t) :
    ∃ v, t = s.complete (warns (catalog i) i.fields) v := by
  rcases exec_next h with ⟨c, _, hc, _⟩ | ⟨_, v, rfl⟩
  · obtain ⟨_, hnone⟩ := (executes_iff i s).1 hx
    simp [hnone] at hc
  · exact ⟨v, rfl⟩

/-- The completion of a command stops no command from executing next: the checks do not read the rows (R203). -/
theorem Executes.complete {i : Instr} {s : State} (hx : Executes i s) (w : Bool) (v : RegFile) :
    Executes i (s.complete w v) := by
  obtain ⟨hh, hlegal, hmode⟩ := hx
  exact ⟨(State.complete_halted s w v).trans hh, hlegal, hmode⟩

/-- The maximum of a row with itself copies that row, for either CLAMP (R150). -/
theorem exec_pkMaxU16_self {g : Fields} {s : State} (hx : Executes (.pkMaxU16 g) s) (hu0 : g.u0 = false)
    (hu1 : g.u1 = false) (hsrc : g.src1 = g.src0) : ∃ u, exec (.pkMaxU16 g) s = .next u ∧
      ∀ l, s.laneActive l → u.vr.read g.vdst l = s.vr.read g.src0 l := by
  have hs0 (l) : source32 (catalog (.pkMaxU16 g)) g s 0 l = s.vr.read g.src0 l := by
    simp [source32, srcUniform, hu0, sourceRow, srcField, catalog, shape32]
  have hs1 (l) : source32 (catalog (.pkMaxU16 g)) g s 1 l = s.vr.read g.src0 l := by
    simp [source32, srcUniform, hu1, sourceRow, srcField, hsrc]
  obtain ⟨_, u, hu, hdest, _⟩ := pkMaxU16Result g s hx
  refine ⟨u, hu, fun l hl => field16_ext fun j hj => ?_⟩
  have hfield := hdest l hl j hj
  simp only [hs0, hs1, ite_self] at hfield
  exact hfield

/-- Settles O20: both bridge commands copy between rows of one register file, whichever side addresses them. -/
theorem bridgeOntoItselfChangesNothing : Obligations.BridgeOntoItselfChangesNothing := by
  refine ⟨fun f s hx hrow => ?_, fun f s hx hu hrow => ?_, fun f s r l v hx hrow hl => ?_,
    fun f g s t hxf hxg hu0 hu1 hrow hsrc h => ?_⟩
  · have ⟨_, hlegal, _⟩ := hx
    obtain ⟨hu, _⟩ := (operandsLegal_accRead_iff f s).1 hlegal
    refine exec_copy_onto_itself hx rfl fun l => ?_
    rw [Instr.fields, source32_accRead hu, destRow_accRead, hrow]
  · refine exec_copy_onto_itself hx rfl fun l => ?_
    rw [Instr.fields, source32_accWrite, destRow_accWrite, hu, hrow]
    exact if_neg Bool.false_ne_true
  · have hx' : Executes (.accRead f) { s with vr := s.vr.write r l v } := hx
    obtain ⟨t, ht, hread⟩ := exec_accRead_reads_row hx' hl
    exact ⟨t, ht, by rw [hread, RegFile.read_write, if_pos ⟨hrow.symm, rfl⟩]⟩
  · obtain ⟨v, rfl⟩ := exec_next_of_executes hxf h
    rw [← hrow]
    exact exec_pkMaxU16_self (hxg.complete _ v) hu0 hu1 hsrc

end Sys2Proof.Machine
